-- ==== Sys2Proof/Word.lean ====
section
/-! DEFINITION. The widths of the data the block handles (00_scope.md R11). -/

namespace Sys2Proof

/-- A byte: a field element of GF(256) (R120), a lane of a value (R180), a byte of a passphrase (R31). -/
abbrev Byte := BitVec 8

/-- A *word* in the spec's sense: a 10-bit mnemonic word index (R11), never a bus word. -/
abbrev Word := BitVec 10

/-- The 32-bit data value of a host transaction (R62, R63); a command word is one (R90). -/
abbrev CellValue := BitVec 32

/-- A cell number of the 65536-location cell space (R60). -/
abbrev Addr := BitVec 16

/-- The 30-bit state of the RS1024 checksum engine (R160). -/
abbrev Checksum := BitVec 30

end Sys2Proof
end

