-- ==== Sys2Proof/Config.lean ====
section
/-! DEFINITION. What an implementation fixes and what the spec leaves free: the open parameters of 00_scope.md R10
and the three external ports of 60_exceptions.md R320 to R326. The default table contents stand in Machine/Tables.lean. -/

namespace Sys2Proof

/-- The room for the passphrase buffer: its address window, 0x0100 to 0x01FF, has 256 addresses (R31, R64, R65), so no
implementation has more cells. How many of them it has is the parameter `Config.passMax`. -/
abbrev passWindow : Nat := 256

/-- The three external functions (R320), byte by byte, so that the contracts on the length of an answer (R321, R322,
R324) hold by construction of `kdf`, `hmac` and `rng` (Machine/Ports.lean). -/
structure Ports where
  /-- Byte `k` of `KDF(password, salt, iterations, outLen)` (R321). -/
  kdfByte : (password salt : List Byte) → (iterations outLen k : Nat) → Byte
  /-- Byte `k` of `HMAC(key, message)` (R322). -/
  hmacByte : (key message : List Byte) → (k : Nat) → Byte
  /-- Byte `i` of the stream the random source answers from (R324). -/
  rngByte : (i : Nat) → Byte
deriving Inhabited

/-- The open parameters (R10, R34), each of them a field. The entries are 8 bits (`LOG`, `EXP`) and 30 significant bits
(`GEN`, R161). -/
structure Config where
  /-- `LOG[a]` (R122). -/
  log : Byte → Byte
  /-- `EXP[i]` (R122). -/
  exp : Byte → Byte
  /-- `GEN[b]`, `b` in 0 to 9 (R161). -/
  gen : Nat → Checksum
  /-- `BASE_ITERATIONS` (R10, R212). -/
  baseIterations : Nat
  /-- `PASS_MAX`, the capacity of the passphrase buffer (R10, R31; U6): at most the whole window. -/
  passMax : Fin (passWindow + 1)
  /-- The functions bound to the ports (R320, R326). -/
  ports : Ports
deriving Inhabited

/-! ## Free values

No body: nothing can be proved of them, so a claim holds whatever they are. -/

/-- The function behind the `KDF` port (R321: total and deterministic, nothing else is known). Log 4, safe. -/
opaque Free.kdfByte : (password salt : List Byte) → (iterations outLen k : Nat) → Byte

/-- The function behind the `HMAC` port (R322: total and deterministic, nothing else is known). Log 4, safe. -/
opaque Free.hmacByte : (key message : List Byte) → (k : Nat) → Byte

/-- The random source as a stream of bytes read at a counter that only grows (R324: "every byte string of that length
is a possible answer"). DESIGN CHOICE of form, log 3. -/
opaque Free.rngByte : Nat → Byte

/-- `LOG[0]`, which no rule reads and on which no result may depend (U1). Log 6, safe. -/
opaque Free.logZero : Byte

/-- `EXP[255]`, which no rule reads and on which no result may depend (U1). Log 6, safe. -/
opaque Free.expLast : Byte

/-- The ports as the machine has them: three unknown functions. -/
def freePorts : Ports := ⟨Free.kdfByte, Free.hmacByte, Free.rngByte⟩

end Sys2Proof
end

