-- ==== Sys2Proof/Syntax.lean ====
section
/-! DEFINITION. The commands (30_encoding.md R92), the named locations of the cell space (20_memory.md R64), the host's
transactions (R62, R63) and the lines of a host script (R110). -/

namespace Sys2Proof

/-- The 18 commands of R92, one constructor per row of the opcode table. `A` and `B` are carried as they stand:
unsigned 8-bit numbers of which every value is a legal encoding (R93). -/
inductive Instr where
  | nop
  | clr
  | gfmul (a b : Byte)
  | wenc
  | wdec
  | rspoly
  | rscreate
  | rsverify
  | interp (queryX n : Byte)
  | split (count threshold : Byte)
  | srecover (threshold : Byte)
  | fenc
  | fdec
  | shenc
  | shdec
  | check1
  | generate
  | recover
deriving DecidableEq, Repr

/-- The mapped locations by name (R64, R110 `<loc>`). -/
inductive Loc where
  | cmd | status | res
  | id | ie | gi | gt | gc | mi | mt
  | len | wlen | plen | nsh
  | xs (i : Fin 16)
  | grpcnt (g : Fin 16)
  | grpthr (g : Fin 16)
  | val (k : Fin 32)
  | w (k : Fin 33)
  | pass (k : Fin passWindow)
  | ys (i : Fin 16) (k : Fin 32)
  | mnlen (s : Fin 256)
  | mn (s : Fin 256) (k : Fin 33)
deriving DecidableEq, Repr

/-- A host transaction: one cell moved whole (R62, R63, R71). -/
inductive Txn where
  | read (addr : Addr)
  | write (addr : Addr) (data : CellValue)
deriving DecidableEq, Repr

/-- A line of a host script (R110): `WR <loc>, <value>`, `RD <loc>`, or a command. -/
inductive Line where
  | wr (l : Loc) (v : CellValue)
  | rd (l : Loc)
  | command (i : Instr)
deriving DecidableEq, Repr

/-- Why a command word is illegal (R94): the name under which the decoder rejects it. -/
inductive IllegalWord where
  /-- `Z != 0`. -/
  | reservedBits
  /-- `OPC` is none of the 18 values of R92. -/
  | unassignedOpcode
  /-- The command takes no `A` and `A != 0`. -/
  | unusedA
  /-- The command takes no `B` and `B != 0`. -/
  | unusedB
deriving DecidableEq, Repr

end Sys2Proof
end

