-- ==== Sys2Proof/WellFormed.lean ====
section
/-! DEFINITION. Which terms the interface admits: commands (R93, R94) and host transactions (R65). -/

namespace Sys2Proof

/-- The reserved addresses, in the words of R65; independent of the address decoder `locate`, which is shown to agree. The
end of the passphrase buffer is the implementation's (R10). -/
def reservedAddr (C : Config) (a : Addr) : Bool :=
  let n := a.toNat
  n == 0x000E || n == 0x000F
    || (0x0081 ≤ n && n ≤ 0x00FF)
    || (0x0100 + C.passMax.val ≤ n && n ≤ 0x01FF)
    || (0x0500 ≤ n && n ≤ 0x1FFF)
    || (0x2000 ≤ n && n ≤ 0x5FFF && 33 ≤ (n - 0x2000) % 64)
    || 0x6000 ≤ n

/-- Every value of `A` and `B` is a legal encoding of a command that takes them: a value out of the command's range
"is not an illegal command; it fails the operand check of that command's rule" (R93). The 8-bit operand types leave
nothing to refuse. -/
def Instr.wf : Instr → Bool
  | .nop | .clr | .wenc | .wdec | .rspoly | .rscreate | .rsverify => true
  | .gfmul _ _ | .interp _ _ | .split _ _ | .srecover _ => true
  | .fenc | .fdec | .shenc | .shdec | .check1 | .generate | .recover => true

/-- "A host must not access" a reserved address (R65): a transaction is well formed when its address is mapped. -/
def Txn.wf (C : Config) : Txn → Bool
  | .read a => !reservedAddr C a
  | .write a _ => !reservedAddr C a

/-- A script is well formed when each of its transactions is. -/
def scriptWf (C : Config) (ts : List Txn) : Bool := ts.all (Txn.wf C)

end Sys2Proof
end

