-- ==== Sys2Proof/Decode.lean ====
section
/-! DEFINITION. The command word (30_encoding.md R90 to R95): decoder, encoder and the mask/match table; the address
map (20_memory.md R64): from an address to a location and back; the assembly of a script line (R110). -/

namespace Sys2Proof

/-! ## Fields of a command word (R90) -/

/-- `OPC`, bits 7:0. -/
def opcField (v : CellValue) : Byte := v.extractLsb' 0 8

/-- `A`, bits 15:8. -/
def aField (v : CellValue) : Byte := v.extractLsb' 8 8

/-- `B`, bits 23:16. -/
def bField (v : CellValue) : Byte := v.extractLsb' 16 8

/-- `Z`, bits 31:24. -/
def zField (v : CellValue) : Byte := v.extractLsb' 24 8

/-! ## Decoder -/

/-- A command that takes neither `A` nor `B` (R92 "-"). -/
def decodeBare (v : CellValue) (i : Instr) : Except IllegalWord Instr :=
  if aField v ≠ 0 then .error .unusedA
  else if bField v ≠ 0 then .error .unusedB
  else .ok i

/-- A command that takes `B` only. -/
def decodeB (v : CellValue) (mk : Byte → Instr) : Except IllegalWord Instr :=
  if aField v ≠ 0 then .error .unusedA else .ok (mk (bField v))

/-- A command that takes both. -/
def decodeAB (v : CellValue) (mk : Byte → Byte → Instr) : Except IllegalWord Instr :=
  .ok (mk (aField v) (bField v))

/-- The decoder: total on the 2^32 command words, each "either is one of the defined commands or fails as illegal"
(R94). It matches all 8 bits of `OPC` (R92). -/
def decode (v : CellValue) : Except IllegalWord Instr :=
  if zField v ≠ 0 then .error .reservedBits
  else match (opcField v).toNat with
    | 0x00 => decodeBare v .nop
    | 0x01 => decodeBare v .clr
    | 0x10 => decodeAB v .gfmul
    | 0x20 => decodeBare v .wenc
    | 0x21 => decodeBare v .wdec
    | 0x30 => decodeBare v .rspoly
    | 0x31 => decodeBare v .rscreate
    | 0x32 => decodeBare v .rsverify
    | 0x40 => decodeAB v .interp
    | 0x41 => decodeAB v .split
    | 0x42 => decodeB v .srecover
    | 0x50 => decodeBare v .fenc
    | 0x51 => decodeBare v .fdec
    | 0x60 => decodeBare v .shenc
    | 0x61 => decodeBare v .shdec
    | 0x62 => decodeBare v .check1
    | 0x70 => decodeBare v .generate
    | 0x71 => decodeBare v .recover
    | _ => .error .unassignedOpcode

/-- `decode` on an instruction whose bits are `w`, `nbits` of them given and the rest zero. A command is one 32-bit
value moved whole, so no byte order enters (R69; log 17). -/
def decodeTableWord (nbits w : Nat) : Option Instr :=
  match decode (BitVec.ofNat 32 (w % 2 ^ nbits)) with
  | .ok i => some i
  | .error _ => none

/-! ## Encoder -/

/-- `word = OPC | (A << 8) | (B << 16) | (Z << 24)` with `Z` = 0 (R90). -/
def commandWord (opc a b : Byte) : CellValue :=
  opc.setWidth 32 ||| (a.setWidth 32 <<< 8) ||| (b.setWidth 32 <<< 16)

/-- The operation code of a command (R92). -/
def Instr.opcode : Instr → Byte
  | .nop => 0x00
  | .clr => 0x01
  | .gfmul _ _ => 0x10
  | .wenc => 0x20
  | .wdec => 0x21
  | .rspoly => 0x30
  | .rscreate => 0x31
  | .rsverify => 0x32
  | .interp _ _ => 0x40
  | .split _ _ => 0x41
  | .srecover _ => 0x42
  | .fenc => 0x50
  | .fdec => 0x51
  | .shenc => 0x60
  | .shdec => 0x61
  | .check1 => 0x62
  | .generate => 0x70
  | .recover => 0x71

/-- The command word of a command (R90, R92, R93). -/
def encode (i : Instr) : CellValue :=
  match i with
  | .gfmul a b => commandWord i.opcode a b
  | .interp q n => commandWord i.opcode q n
  | .split c t => commandWord i.opcode c t
  | .srecover t => commandWord i.opcode 0 t
  | .nop | .clr | .wenc | .wdec | .rspoly | .rscreate | .rsverify | .fenc | .fdec | .shenc | .shdec | .check1
  | .generate | .recover => commandWord i.opcode 0 0

/-! ## The mask/match table (R95) -/

/-- A row of the opcode table: its mnemonic, `match` and `mask`. -/
structure OpcodeRow where
  mnemonic : String
  pattern : CellValue
  mask : CellValue
deriving DecidableEq, Repr

/-- The 18 rows of spec/opcode_table.json, by the rule R95 gives for `mask` and `match`. -/
def opcodeRows : List OpcodeRow :=
  [ ⟨"NOP", 0x00000000, 0xFFFFFFFF⟩, ⟨"CLR", 0x00000001, 0xFFFFFFFF⟩,
    ⟨"GFMUL", 0x00000010, 0xFF0000FF⟩, ⟨"WENC", 0x00000020, 0xFFFFFFFF⟩,
    ⟨"WDEC", 0x00000021, 0xFFFFFFFF⟩, ⟨"RSPOLY", 0x00000030, 0xFFFFFFFF⟩,
    ⟨"RSCREATE", 0x00000031, 0xFFFFFFFF⟩, ⟨"RSVERIFY", 0x00000032, 0xFFFFFFFF⟩,
    ⟨"INTERP", 0x00000040, 0xFF0000FF⟩, ⟨"SPLIT", 0x00000041, 0xFF0000FF⟩,
    ⟨"SRECOVER", 0x00000042, 0xFF00FFFF⟩, ⟨"FENC", 0x00000050, 0xFFFFFFFF⟩,
    ⟨"FDEC", 0x00000051, 0xFFFFFFFF⟩, ⟨"SHENC", 0x00000060, 0xFFFFFFFF⟩,
    ⟨"SHDEC", 0x00000061, 0xFFFFFFFF⟩, ⟨"CHECK1", 0x00000062, 0xFFFFFFFF⟩,
    ⟨"GENERATE", 0x00000070, 0xFFFFFFFF⟩, ⟨"RECOVER", 0x00000071, 0xFFFFFFFF⟩ ]

/-- Does a command word match a row (R95)? -/
def OpcodeRow.matches (r : OpcodeRow) (v : CellValue) : Bool := v &&& r.mask == r.pattern

/-- The mnemonic of a command (R92), which names its row. -/
def Instr.mnemonic : Instr → String
  | .nop => "NOP"
  | .clr => "CLR"
  | .gfmul _ _ => "GFMUL"
  | .wenc => "WENC"
  | .wdec => "WDEC"
  | .rspoly => "RSPOLY"
  | .rscreate => "RSCREATE"
  | .rsverify => "RSVERIFY"
  | .interp _ _ => "INTERP"
  | .split _ _ => "SPLIT"
  | .srecover _ => "SRECOVER"
  | .fenc => "FENC"
  | .fdec => "FDEC"
  | .shenc => "SHENC"
  | .shdec => "SHDEC"
  | .check1 => "CHECK1"
  | .generate => "GENERATE"
  | .recover => "RECOVER"

/-! ## The address map (R64) -/

/-- The cell number of a location (R64). -/
def Loc.addrNat : Loc → Nat
  | .cmd => 0x0000
  | .status => 0x0001
  | .res => 0x0002
  | .id => 0x0003
  | .ie => 0x0004
  | .gi => 0x0005
  | .gt => 0x0006
  | .gc => 0x0007
  | .mi => 0x0008
  | .mt => 0x0009
  | .len => 0x000A
  | .wlen => 0x000B
  | .plen => 0x000C
  | .nsh => 0x000D
  | .xs i => 0x0010 + i
  | .grpcnt g => 0x0020 + g
  | .grpthr g => 0x0030 + g
  | .val k => 0x0040 + k
  | .w k => 0x0060 + k
  | .pass k => 0x0100 + k
  | .ys i k => 0x0200 + 32 * i + k
  | .mnlen s => 0x0400 + s
  | .mn s k => 0x2000 + 64 * s + k

/-- `addr(loc)` (R110). -/
def Loc.addr (l : Loc) : Addr := BitVec.ofNat 16 l.addrNat

/-- The width of a cell in bits (R64). -/
def Loc.width : Loc → Nat
  | .cmd | .status | .res => 32
  | .id => 15
  | .ie | .gt | .gc | .mt => 5
  | .gi | .mi => 4
  | .len | .wlen => 6
  | .plen => 8
  | .nsh => 9
  | .xs _ | .val _ | .pass _ | .ys _ _ => 8
  | .grpcnt _ | .grpthr _ => 5
  | .w _ | .mn _ _ => 10
  | .mnlen _ => 6

/-- Is the location a read-write cell (R64)? The three others are `CMD` (write-only), `STATUS` and `RES` (read-only). -/
def Loc.readWrite : Loc → Bool
  | .cmd | .status | .res => false
  | .id | .ie | .gi | .gt | .gc | .mi | .mt | .len | .wlen | .plen | .nsh => true
  | .xs _ | .grpcnt _ | .grpthr _ | .val _ | .w _ | .pass _ | .ys _ _ | .mnlen _ | .mn _ _ => true

/-- The scalar locations, addresses 0x0000 to 0x000D in order (R64); 0x000E and 0x000F are reserved (R65). -/
def scalarLocs : List Loc :=
  [.cmd, .status, .res, .id, .ie, .gi, .gt, .gc, .mi, .mt, .len, .wlen, .plen, .nsh]

/-- Is the location there, the capacity of the passphrase buffer being the implementation's (R31, R64)? -/
def Loc.mapped (C : Config) : Loc → Bool
  | .pass k => decide (k.val < C.passMax.val)
  | _ => true

/-- The address decoder: the location an address names, `none` for a reserved address (R64, R65). -/
def locate (C : Config) (a : Addr) : Option Loc :=
  let n := a.toNat
  if n < 0x0010 then scalarLocs[n]?
  else if h : 0x0010 ≤ n ∧ n < 0x0020 then some (.xs ⟨n - 0x0010, by omega⟩)
  else if h : 0x0020 ≤ n ∧ n < 0x0030 then some (.grpcnt ⟨n - 0x0020, by omega⟩)
  else if h : 0x0030 ≤ n ∧ n < 0x0040 then some (.grpthr ⟨n - 0x0030, by omega⟩)
  else if h : 0x0040 ≤ n ∧ n < 0x0060 then some (.val ⟨n - 0x0040, by omega⟩)
  else if h : 0x0060 ≤ n ∧ n < 0x0081 then some (.w ⟨n - 0x0060, by omega⟩)
  else if h : 0x0100 ≤ n ∧ n < 0x0100 + C.passMax.val then
    some (.pass ⟨n - 0x0100, by have := C.passMax.isLt; omega⟩)
  else if h : 0x0200 ≤ n ∧ n < 0x0400 then
    some (.ys ⟨(n - 0x0200) / 32, by omega⟩ ⟨(n - 0x0200) % 32, by omega⟩)
  else if h : 0x0400 ≤ n ∧ n < 0x0500 then some (.mnlen ⟨n - 0x0400, by omega⟩)
  else if h : 0x2000 ≤ n ∧ n < 0x6000 ∧ (n - 0x2000) % 64 < 33 then
    some (.mn ⟨(n - 0x2000) / 64, by omega⟩ ⟨(n - 0x2000) % 64, by omega⟩)
  else none

/-! ## Assembly of a script line (R110) -/

/-- The transaction a line of a host script stands for (R110). -/
def Line.txn : Line → Txn
  | .wr l v => .write l.addr v
  | .rd l => .read l.addr
  | .command i => .write Loc.cmd.addr (encode i)

end Sys2Proof
end

