-- ==== Sys2Proof/Machine/State.lean ====
section
/-! DEFINITION. The state of the block (10_state.md R22 to R33), the reasons a step can stop, and the state after
reset (R50). -/

namespace Sys2Proof.Machine

/-- Reasons for the machine to stop with a fault. There is none: every error of a command is reported in `STATUS` and
the machine goes on (R303, R305), there is no trap (R311) and a port call always returns (R323). Nothing raises it;
safe (log 18). -/
inductive Fault
deriving DecidableEq, Repr

/-- Reasons for the model to give a step no meaning. -/
inductive Refusal where
  /-- Raised by `exec` for a command that has no meaning yet; no arm of `exec` raises it. Safe. -/
  | notModelled (mnemonic : String)
  /-- Raised by a host read or write of a reserved address (R65: "tells the model to *refuse* it"). Safe: the spec
  leaves the access undefined and the model claims nothing of it (log 10). -/
  | reservedAddress (addr : Addr)
deriving DecidableEq, Repr

/-- The Share record (R17, R23): the registers' fields, with `groupThreshold`, `groupCount` and `memberThreshold` as
the registers hold them (1 to 16, R22), and the value. -/
structure Share where
  id : BitVec 15
  ie : BitVec 5
  gi : BitVec 4
  gt : BitVec 5
  gc : BitVec 5
  mi : BitVec 4
  mt : BitVec 5
  value : List Byte
deriving DecidableEq, Repr

/-- The cells of the block (R20: "the set of cells listed in rules R22 to R33 and nothing else"), and, last, three
fields that are the model's own: the port counter and the host's side. -/
structure State where
  /-- `STATUS` (R25). -/
  status : BitVec 32
  /-- `RES` (R26). -/
  res : BitVec 32
  /-- `ID`, identifier (R22). -/
  id : BitVec 15
  /-- `IE`, iteration exponent (R22). -/
  ie : BitVec 5
  /-- `GI`, group index (R22). -/
  gi : BitVec 4
  /-- `GT`, group threshold (R22). -/
  gt : BitVec 5
  /-- `GC`, group count (R22). -/
  gc : BitVec 5
  /-- `MI`, member index (R22). -/
  mi : BitVec 4
  /-- `MT`, member threshold (R22). -/
  mt : BitVec 5
  /-- `LEN`, byte length of the value in `VAL` and of each used row of `YS` (R22). -/
  len : BitVec 6
  /-- `WLEN`, number of valid words in `W` (R22). -/
  wlen : BitVec 6
  /-- `PLEN`, byte length of the passphrase in `PASS` (R22). -/
  plen : BitVec 8
  /-- `NSH`, number of mnemonics in `MN` (R22). -/
  nsh : BitVec 9
  /-- `XS[0..15]`, x coordinates (R27). -/
  xs : Vector Byte 16
  /-- `YS[0..15][0..31]`, values of the points (R28). -/
  ys : Vector (Vector Byte 32) 16
  /-- `VAL[0..31]`, the working value (R29). -/
  val : Vector Byte 32
  /-- `W[0..32]`, one word sequence (R30). -/
  w : Vector Word 33
  /-- `PASS[0..PASS_MAX-1]`, the passphrase (R31). The vector is the whole window, so that every capacity fits (log 9):
  the cells from `PASS_MAX` on are no cells of the block, no address names them and they keep 0. -/
  pass : Vector Byte passWindow
  /-- `GRPCNT[0..15]`, member counts of the groups (R32). -/
  grpcnt : Vector (BitVec 5) 16
  /-- `GRPTHR[0..15]`, member thresholds of the groups (R32). -/
  grpthr : Vector (BitVec 5) 16
  /-- `MN[0..255][0..32]`, the mnemonics (R33). -/
  mn : Vector (Vector Word 33) 256
  /-- `MNLEN[0..255]`, the number of valid words of each (R33). -/
  mnlen : Vector (BitVec 6) 256
  /-- The model's own: how many bytes the `RNG` port has answered so far, the position in the free stream (R324,
  log 3). -/
  rngDrawn : Nat
  /-- The model's own: the host's transactions still to come, first one first (R21, R110, log 1). -/
  script : List Txn
  /-- The model's own: what the host's reads have returned, oldest first (R62, log 2). -/
  replies : List CellValue
deriving DecidableEq, Repr

/-- The machine right after reset (R50, R341): every cell zero. The three fields of the model start empty (logs 1, 2,
3). -/
def State.reset : State where
  status := 0
  res := 0
  id := 0
  ie := 0
  gi := 0
  gt := 0
  gc := 0
  mi := 0
  mt := 0
  len := 0
  wlen := 0
  plen := 0
  nsh := 0
  xs := Vector.replicate 16 0
  ys := Vector.replicate 16 (Vector.replicate 32 0)
  val := Vector.replicate 32 0
  w := Vector.replicate 33 0
  pass := Vector.replicate passWindow 0
  grpcnt := Vector.replicate 16 0
  grpthr := Vector.replicate 16 0
  mn := Vector.replicate 256 (Vector.replicate 33 0)
  mnlen := Vector.replicate 256 0
  rngDrawn := 0
  script := []
  replies := []

end Sys2Proof.Machine
end

