-- ==== Sys2Proof/Machine/Flags.lean ====
section
/-! DEFINITION. The status word: error classes and codes (60_exceptions.md R300 to R303) and the fields of `STATUS`
(10_state.md R25, R38). There are no arithmetic flags (R38). -/

namespace Sys2Proof.Machine

/-- The error classes (R301). -/
inductive ErrorClass where
  | validationError
  | checksumError
  | paddingError
  | consistencyError
  | digestMismatchError
  | insufficientSharesError
  | illegalCommand
deriving DecidableEq, Repr

/-- The error codes (R302). -/
inductive CmdError where
  | invalidMnemonicChecksum
  | invalidPadding
  | invalidGroupThreshold
  | duplicateMemberIndex
  | notEnoughMemberShards
  | insufficientShares
  | digestMismatch
  | inconsistentShareSet
  | memberThresholdMismatch
  | invalidSecretLength
  | invalidThreshold
  | invalidOperand
  | illegalCommand
deriving DecidableEq, Repr

/-- `ECLASS` (R301). -/
def ErrorClass.number : ErrorClass → BitVec 4
  | .validationError => 1
  | .checksumError => 2
  | .paddingError => 3
  | .consistencyError => 4
  | .digestMismatchError => 5
  | .insufficientSharesError => 6
  | .illegalCommand => 7

/-- `ECODE` (R302). -/
def CmdError.code : CmdError → BitVec 8
  | .invalidMnemonicChecksum => 1
  | .invalidPadding => 2
  | .invalidGroupThreshold => 3
  | .duplicateMemberIndex => 4
  | .notEnoughMemberShards => 5
  | .insufficientShares => 6
  | .digestMismatch => 7
  | .inconsistentShareSet => 8
  | .memberThresholdMismatch => 9
  | .invalidSecretLength => 10
  | .invalidThreshold => 11
  | .invalidOperand => 12
  | .illegalCommand => 13

/-- The class a code falls under (R302: "each code belongs to exactly one class"). -/
def CmdError.errorClass : CmdError → ErrorClass
  | .invalidMnemonicChecksum => .checksumError
  | .invalidPadding => .paddingError
  | .invalidGroupThreshold => .validationError
  | .duplicateMemberIndex => .consistencyError
  | .notEnoughMemberShards => .insufficientSharesError
  | .insufficientShares => .insufficientSharesError
  | .digestMismatch => .digestMismatchError
  | .inconsistentShareSet => .consistencyError
  | .memberThresholdMismatch => .consistencyError
  | .invalidSecretLength => .validationError
  | .invalidThreshold => .validationError
  | .invalidOperand => .validationError
  | .illegalCommand => .illegalCommand

/-- The 13 errors, in the order of their codes (R302). -/
def allErrors : List CmdError :=
  [.invalidMnemonicChecksum, .invalidPadding, .invalidGroupThreshold, .duplicateMemberIndex, .notEnoughMemberShards,
    .insufficientShares, .digestMismatch, .inconsistentShareSet, .memberThresholdMismatch, .invalidSecretLength,
    .invalidThreshold, .invalidOperand, .illegalCommand]

/-- `STATUS` on success: `DONE` alone (R300). -/
def statusOk : BitVec 32 := 0x00000001

/-- `STATUS` on error: `0x3 | ECLASS << 4 | ECODE << 8` (R303). -/
def statusError (e : CmdError) : BitVec 32 :=
  0x3 ||| (e.errorClass.number.setWidth 32 <<< 4) ||| (e.code.setWidth 32 <<< 8)

/-- `STATUS.DONE`, bit 0 (R25). -/
def State.done (s : State) : Bool := s.status.getLsbD 0

/-- `STATUS.ERR`, bit 1 (R25). -/
def State.err (s : State) : Bool := s.status.getLsbD 1

/-- `STATUS.ECLASS`, bits 7:4 (R25). -/
def State.eclass (s : State) : BitVec 4 := s.status.extractLsb' 4 4

/-- `STATUS.ECODE`, bits 15:8 (R25). -/
def State.ecode (s : State) : BitVec 8 := s.status.extractLsb' 8 8

end Sys2Proof.Machine
end

