-- ==== Sys2Proof/Machine/Ops.lean ====
section
/-! DEFINITION. The named operations on the state: writing the valid part of a buffer, the updates the commands make,
the cells seen from the host interface (20_memory.md R62, R63), and how a command ends (60_exceptions.md R300, R303,
R304). -/

namespace Sys2Proof.Machine

/-! ## Buffers -/

/-- `f old new` on the leading elements, as many as there are new values; the rest stays (R37: "cells ... beyond the
written length keep their old contents"). -/
def zipOnto {α β : Type} (f : α → β → α) : List α → List β → List α
  | a :: as, b :: bs => f a b :: zipOnto f as bs
  | as, [] => as
  | [], _ :: _ => []

theorem length_zipOnto {α β : Type} (f : α → β → α) (as : List α) (bs : List β) :
    (zipOnto f as bs).length = as.length := by
  fun_induction zipOnto f as bs <;> simp_all

/-- `zipOnto` on a buffer. -/
def updateBuf {α β : Type} {n : Nat} (f : α → β → α) (v : Vector α n) (l : List β) : Vector α n :=
  ⟨⟨zipOnto f v.toList l⟩, by simp [length_zipOnto]⟩

/-- `BUF[k] <- l[k]` for every `k` below the length of `l`; the other cells keep their contents (R37). -/
def overwrite {α : Type} {n : Nat} (v : Vector α n) (l : List α) : Vector α n := updateBuf (fun _ b => b) v l

/-- The same row by row: `BUF[i][k] <- l[i][k]`. -/
def overwriteRows {α : Type} {n m : Nat} (v : Vector (Vector α m) n) (l : List (List α)) : Vector (Vector α m) n :=
  updateBuf overwrite v l

/-! ## The updates the commands make (R36) -/

/-- `RES <- v`. -/
def State.putRes (s : State) (v : BitVec 32) : State := { s with res := v }

/-- `VAL[k] <- b[k]`. -/
def State.putVal (s : State) (b : List Byte) : State := { s with val := overwrite s.val b }

/-- `VAL[k] <- b[k]`; `LEN <- len(b)`. -/
def State.putValue (s : State) (b : List Byte) : State :=
  { s with val := overwrite s.val b, len := BitVec.ofNat 6 b.length }

/-- `W[k] <- w[k]`. -/
def State.putW (s : State) (ws : List Word) : State := { s with w := overwrite s.w ws }

/-- `W[k] <- w[k]`; `WLEN <- len(w)`. -/
def State.putWords (s : State) (ws : List Word) : State :=
  { s with w := overwrite s.w ws, wlen := BitVec.ofNat 6 ws.length }

/-- The decoded Share record into the registers, `VAL` and `LEN` (R239). -/
def State.putShare (s : State) (h : Share) : State :=
  { s with
    id := h.id, ie := h.ie, gi := h.gi, gt := h.gt, gc := h.gc, mi := h.mi, mt := h.mt,
    val := overwrite s.val h.value, len := BitVec.ofNat 6 h.value.length }

/-- The five fields `CHECK1` reports (R240). -/
def State.putChecked (s : State) (h : Share) : State :=
  { s with gi := h.gi, mi := h.mi, mt := h.mt, id := h.id, ie := h.ie }

/-- `XS[x] <- x` and `YS[x][k] <- sh[x][k]` (R191), and the random bytes drawn (R324). -/
def State.putPoints (s : State) (sh : List (List Byte)) (drawn : Nat) : State :=
  { s with
    xs := overwrite s.xs ((List.range sh.length).map (BitVec.ofNat 8)),
    ys := overwriteRows s.ys sh,
    rngDrawn := drawn }

/-- `MN[s][k] <- out[s][k]`; `MNLEN[s] <- len(out[s])`; `NSH <- len(out)` (R254), and the random bytes drawn (R324). -/
def State.putMnemonics (s : State) (out : List (List Word)) (drawn : Nat) : State :=
  { s with
    mn := overwriteRows s.mn out,
    mnlen := overwrite s.mnlen (out.map (fun ws => BitVec.ofNat 6 ws.length)),
    nsh := BitVec.ofNat 9 out.length,
    rngDrawn := drawn }

/-- Every read-write cell and `RES` to zero (R291). `STATUS` is left to the completion of the command. -/
def State.clear (s : State) : State :=
  { s with
    res := 0, id := 0, ie := 0, gi := 0, gt := 0, gc := 0, mi := 0, mt := 0,
    len := 0, wlen := 0, plen := 0, nsh := 0,
    xs := Vector.replicate 16 0,
    ys := Vector.replicate 16 (Vector.replicate 32 0),
    val := Vector.replicate 32 0,
    w := Vector.replicate 33 0,
    pass := Vector.replicate passWindow 0,
    grpcnt := Vector.replicate 16 0,
    grpthr := Vector.replicate 16 0,
    mn := Vector.replicate 256 (Vector.replicate 33 0),
    mnlen := Vector.replicate 256 0 }

/-! ## How a command ends -/

/-- Success: `STATUS` <- 0x00000001 (R300). -/
def State.succeed (s : State) : State := { s with status := statusOk }

/-- Taking an error, what "trap entry" amounts to in this block (R311): `STATUS` gets `DONE`, `ERR`, the class and the
code, and nothing else changes (R303, R304). There is nothing to return to: "what "trap return" amounts to is the host
issuing its next command" (R311). -/
def State.fail (s : State) (e : CmdError) : State := { s with status := statusError e }

/-- The end of every command: the results and success together, or the error alone (R91 step 4, R304 "No partial
output is ever returned on error"). `r` is what the command computed from `s`. -/
def finish (s : State) (r : Except CmdError State) : Host.Outcome State Fault Refusal :=
  match r with
  | .ok t => .next t.succeed
  | .error e => .next (s.fail e)

/-! ## Cells on the host interface -/

/-- What a read of a location returns: the cell zero-extended to 32 bits, 0 for `CMD` (R62). -/
def State.readLoc (s : State) : Loc → CellValue
  | .cmd => 0
  | .status => s.status
  | .res => s.res
  | .id => s.id.setWidth 32
  | .ie => s.ie.setWidth 32
  | .gi => s.gi.setWidth 32
  | .gt => s.gt.setWidth 32
  | .gc => s.gc.setWidth 32
  | .mi => s.mi.setWidth 32
  | .mt => s.mt.setWidth 32
  | .len => s.len.setWidth 32
  | .wlen => s.wlen.setWidth 32
  | .plen => s.plen.setWidth 32
  | .nsh => s.nsh.setWidth 32
  | .xs i => s.xs[i].setWidth 32
  | .grpcnt g => s.grpcnt[g].setWidth 32
  | .grpthr g => s.grpthr[g].setWidth 32
  | .val k => s.val[k].setWidth 32
  | .w k => s.w[k].setWidth 32
  | .pass k => s.pass[k].setWidth 32
  | .ys i k => s.ys[i][k].setWidth 32
  | .mnlen m => s.mnlen[m].setWidth 32
  | .mn m k => s.mn[m][k].setWidth 32

/-- A host write to a location other than `CMD`: the low `width` bits into a read-write cell, "upper bits dropped, no
legality check"; nothing for `STATUS` and `RES` (R63). A write to `CMD` is a command and is not answered here
(Machine/Bus.lean). -/
def State.writeLoc (s : State) (l : Loc) (v : CellValue) : State :=
  match l with
  | .cmd => s
  | .status => s
  | .res => s
  | .id => { s with id := v.setWidth 15 }
  | .ie => { s with ie := v.setWidth 5 }
  | .gi => { s with gi := v.setWidth 4 }
  | .gt => { s with gt := v.setWidth 5 }
  | .gc => { s with gc := v.setWidth 5 }
  | .mi => { s with mi := v.setWidth 4 }
  | .mt => { s with mt := v.setWidth 5 }
  | .len => { s with len := v.setWidth 6 }
  | .wlen => { s with wlen := v.setWidth 6 }
  | .plen => { s with plen := v.setWidth 8 }
  | .nsh => { s with nsh := v.setWidth 9 }
  | .xs i => { s with xs := s.xs.set i (v.setWidth 8) }
  | .grpcnt g => { s with grpcnt := s.grpcnt.set g (v.setWidth 5) }
  | .grpthr g => { s with grpthr := s.grpthr.set g (v.setWidth 5) }
  | .val k => { s with val := s.val.set k (v.setWidth 8) }
  | .w k => { s with w := s.w.set k (v.setWidth 10) }
  | .pass k => { s with pass := s.pass.set k (v.setWidth 8) }
  | .ys i k => { s with ys := s.ys.set i (s.ys[i].set k (v.setWidth 8)) }
  | .mnlen m => { s with mnlen := s.mnlen.set m (v.setWidth 6) }
  | .mn m k => { s with mn := s.mn.set m (s.mn[m].set k (v.setWidth 10)) }

end Sys2Proof.Machine
end

