-- ==== Sys2Proof/Machine/Operands.lean ====
section
/-! DEFINITION. The operands a command reads from the registers and buffers (10_state.md R36), and the operand checks
(the length and range tests of the command rules, 60_exceptions.md R306). -/

namespace Sys2Proof.Machine

/-- `VAL[0..LEN-1]`. -/
def State.value (s : State) : List Byte := s.val.toList.take s.len.toNat

/-- `W[0..WLEN-1]`. -/
def State.words (s : State) : List Word := s.w.toList.take s.wlen.toNat

/-- `PASS[0..PLEN-1]`. -/
def State.passphrase (s : State) : List Byte := s.pass.toList.take s.plen.toNat

/-- The points `(XS[i], YS[i][0..LEN-1])` for `i` in 0 to `n-1` (R190, R192). -/
def State.points (s : State) (n : Nat) : List (Byte × List Byte) :=
  (s.xs.toList.zip (s.ys.toList.map (fun row => row.toList.take s.len.toNat))).take n

/-- The group descriptors `(GRPCNT[g], GRPTHR[g])` for `g` in 0 to `GC-1` (R254). -/
def State.groups (s : State) : List (Nat × Nat) :=
  ((s.grpcnt.toList.map BitVec.toNat).zip (s.grpthr.toList.map BitVec.toNat)).take s.gc.toNat

/-- `(MNLEN[s], MN[s])` for `s` in 0 to `NSH-1` (R270). -/
def State.rows (s : State) : List (BitVec 6 × Vector Word 33) :=
  (s.mnlen.toList.zip s.mn.toList).take s.nsh.toNat

/-- The Share record in the registers and `VAL` (R23, R238). -/
def State.shareRecord (s : State) : Share where
  id := s.id
  ie := s.ie
  gi := s.gi
  gt := s.gt
  gc := s.gc
  mi := s.mi
  mt := s.mt
  value := s.value

/-- `lo <= n <= hi`. -/
def inRange (lo hi n : Nat) : Bool := lo ≤ n && n ≤ hi

/-- `1 <= threshold <= count <= 16` (R19). -/
def thresholdOk (threshold count : Nat) : Bool := 1 ≤ threshold && threshold ≤ count && count ≤ 16

/-- A master secret's length: even and 16 to 32 (R215, R252, R263). -/
def secretLengthOk (n : Nat) : Bool := 16 ≤ n && n ≤ 32 && n % 2 == 0

/-- The x values in use are pairwise different (R182). -/
def distinct (xs : List Byte) : Bool := decide xs.Nodup

end Sys2Proof.Machine
end

