-- ==== Sys2Proof/Machine/Ports.lean ====
section
/-! DEFINITION. Calls on the three external ports (60_exceptions.md R320 to R324). -/

namespace Sys2Proof.Machine

/-- `KDF(password, salt, iterations, outLen)`: a function of its arguments that "returns exactly `outLen` bytes"
(R321). -/
def kdf (C : Config) (password salt : List Byte) (iterations outLen : Nat) : List Byte :=
  (List.range outLen).map (C.ports.kdfByte password salt iterations outLen)

/-- `HMAC(key, message)`: a function of key and message that "returns exactly 32 bytes" (R322). -/
def hmac (C : Config) (key message : List Byte) : List Byte :=
  (List.range 32).map (C.ports.hmacByte key message)

/-- `RNG(len)` when `drawn` bytes have been drawn before: the next `len` bytes of the free stream (R324). The caller
goes on from `drawn + len`. -/
def rng (C : Config) (drawn len : Nat) : List Byte :=
  (List.range len).map (fun k => C.ports.rngByte (drawn + k))

end Sys2Proof.Machine
end

