-- ==== Sys2Proof/Machine/Tables.lean ====
section
/-! DEFINITION. The constant tables with the spec's default contents (10_state.md R34): `LOG` and `EXP` (40_gf256.md
R122), `GEN` (42_rs1024.md R161), `CUST` (00_scope.md R8), `BASE_ITERATIONS` (R10), and the configuration of the
machine. -/

namespace Sys2Proof.Machine

/-- `EXP` as R122 lists it: row `r` is a 16-byte number whose most significant byte is entry `16*r`. PRESUMED (G1),
log 5. -/
def expRows : List Nat :=
  [ 0x0103050F113355FF1A2E7296A1F81335,
    0x5FE13848D87395A4F702060A1E2266AA,
    0xE5345CE43759EB266ABED97090ABE631,
    0x53F5040C143C44CC4FD168B8D36EB2CD,
    0x4CD467A9E03B4DD762A6F10818287888,
    0x839EB9D06BBDDC7F8198B3CE49DB769A,
    0xB5C457F9103050F00B1D2769BBD661A3,
    0xFE192B7D8792ADEC2F7193AEE92060A0,
    0xFB163A4ED26DB7C25DE73256FA153F41,
    0xC35EE23D47C940C05BED2C749CBFDA75,
    0x9FBAD564ACEF2A7E829DBCDF7A8E8980,
    0x9BB6C158E82365AFEA256FB1C843C554,
    0xFC1F2163A5F407091B2D7799B0CB46CA,
    0x45CF4ADE798B8691A8E33E42C651F30E,
    0x12365AEE297B8D8C8F8A8594A7F20D17,
    0x394BDD7C8497A2FD1C246CB4C752F600 ]

/-- `LOG` as R122 lists it, laid out as `expRows`. PRESUMED (G1), log 5. -/
def logRows : List Nat :=
  [ 0x0000190132021AC64BC71B6833EEDF03,
    0x6404E00E348D81EF4C7108C8F8691CC1,
    0x7DC21DB5F9B9276A4DE4A6729AC90978,
    0x652F8A05210FE12412F082453593DA8E,
    0x968FDBBD36D0CE94135CD2F140468338,
    0x66DDFD30BF068B62B325E29822889110,
    0x7E6E48C3A3B61E423A6B2854FA853DBA,
    0x2B790A159B9F5ECA4ED4ACE5F373A757,
    0xAF58A850F4EAD6744FAEE9D5E7E6ADE8,
    0x2CD7757AEB160BF559CB5FB09CA951A0,
    0x7F0CF66F17C449ECD8431F2DA4767BB7,
    0xCCBB3E5AFB60B1863B52A16CAA55299D,
    0x97B2879061BEDCFCBC95CFCD373F5BD1,
    0x5339843C41A26D47142A9E5D56F2D3AB,
    0x441192D923202E89B47CB8267799E3A5,
    0x674AEDDEC531FE180D638C80C0F77007 ]

/-- Entry `i` of a table listed in rows of 16 (R122: row `r`, column `c` is entry `16*r + c`). -/
def tableEntry (rows : List Nat) (i : Byte) : Byte :=
  BitVec.ofNat 8 ((rows.getD (i.toNat / 16) 0) >>> (8 * (15 - i.toNat % 16)))

/-- `LOG[a]`; entry 0 is free (R121: "`LOG[0]` is never read"; U1, log 6). -/
def logTable (a : Byte) : Byte := if a = 0 then Free.logZero else tableEntry logRows a

/-- `EXP[i]`; entry 255 is free (R121: "`EXP[255]` is never read"; U1, log 6). -/
def expTable (i : Byte) : Byte := if i = 255 then Free.expLast else tableEntry expRows i

/-- `GEN[0..9]` (R161). PRESUMED (G2), log 7. -/
def genList : List Checksum :=
  [0x00E0E040, 0x01C1C080, 0x03838100, 0x07070200, 0x0E0E0009, 0x1C0C2412, 0x38086C24, 0x3090FC48, 0x21B1F890,
    0x03F3F120]

/-- `GEN[b]`, `b` in 0 to 9 (R161); no rule asks for another. -/
def genTable (b : Nat) : Checksum := genList.getD b 0

/-- `CUST`: the six ASCII bytes of "shamir" (R8). -/
def cust : List Byte := [0x73, 0x68, 0x61, 0x6D, 0x69, 0x72]

/-- `CUST` as the six values that come before the words in every use of `polymod` (R162). -/
def custWords : List Word := cust.map (BitVec.setWidth 10)

/-- The default parameters (R10) with given functions bound to the ports (R326). `BASE_ITERATIONS` = 2500 is PRESUMED
(G3), log 8. `PASS_MAX` = 128 is the spec's own default, DESIGN CHOICE, unsafe: log 9. -/
def configWith (p : Ports) : Config where
  log := logTable
  exp := expTable
  gen := genTable
  baseIterations := 2500
  passMax := 128
  ports := p

/-- The configuration of the machine: the default parameters and three unknown port functions. -/
def hardware : Config := configWith freePorts

end Sys2Proof.Machine
end

