-- ==== Sys2Proof/Machine/Housekeeping.lean ====
section
/-! DEFINITION. NOP, CLR (47_housekeeping.md). -/

namespace Sys2Proof.Machine

/-- `NOP`: no location is read or written (R290). -/
def nopBody (_ : Config) (s : State) : Except CmdError State := .ok s

/-- `CLR`: every read-write cell and `RES` to zero (R291). -/
def clrBody (_ : Config) (s : State) : Except CmdError State := .ok s.clear

/-- `NOP` (R290): nothing but `STATUS`. -/
def execNop (s : State) : Host.Outcome State Fault Refusal := finish s (nopBody hardware s)

/-- `CLR` (R291). -/
def execClr (s : State) : Host.Outcome State Fault Refusal := finish s (clrBody hardware s)

end Sys2Proof.Machine
end

