-- ==== Sys2Proof/Machine/Feistel.lean ====
section
/-! DEFINITION. The Feistel cipher core, 4 rounds (44_feistel.md): FENC, FDEC. -/

namespace Sys2Proof.Machine

/-- `salt(id, R)`: `CUST`, the identifier as two bytes, most significant first, then `R` (R210, R67(b)). -/
def salt (ident : BitVec 15) (r : List Byte) : List Byte :=
  cust ++ [(ident.extractLsb' 8 7).setWidth 8, ident.extractLsb' 0 8] ++ r

/-- `password(i, pp)`: one byte holding the round index, then the passphrase unchanged (R211). -/
def password (i : Byte) (pp : List Byte) : List Byte := i :: pp

/-- `a xor b` on byte sequences, element by element (R12). -/
def xorBytes (a b : List Byte) : List Byte := List.zipWith (· ^^^ ·) a b

/-- The round function (R212). The iteration count is a natural number, formed without truncation. -/
def roundF (C : Config) (ident : BitVec 15) (ie : BitVec 5) (pp : List Byte) (i : Byte) (r : List Byte) : List Byte :=
  kdf C (password i pp) (salt ident r) (C.baseIterations <<< ie.toNat) r.length

/-- One round: `(L, R) <- (R, L xor F(i, R))`, both on the right the old ones (R213). -/
def feistelRound (C : Config) (ident : BitVec 15) (ie : BitVec 5) (pp : List Byte) (lr : List Byte × List Byte)
    (i : Byte) : List Byte × List Byte :=
  (lr.2, xorBytes lr.1 (roundF C ident ie pp i lr.2))

/-- The network over the rounds in `order`, halves swapped at the end (R214). -/
def feistel (C : Config) (order : List Byte) (sec : List Byte) (ident : BitVec 15) (ie : BitVec 5) (pp : List Byte) :
    List Byte :=
  let halves := (sec.take (sec.length / 2), sec.drop (sec.length / 2))
  let last := order.foldl (feistelRound C ident ie pp) halves
  last.2 ++ last.1

/-- `feistel_encrypt` (R214). -/
def feistelEncrypt (C : Config) (sec : List Byte) (ident : BitVec 15) (ie : BitVec 5) (pp : List Byte) : List Byte :=
  feistel C [0, 1, 2, 3] sec ident ie pp

/-- `feistel_decrypt` (R214): the same rounds in the opposite order and the same final swap. -/
def feistelDecrypt (C : Config) (sec : List Byte) (ident : BitVec 15) (ie : BitVec 5) (pp : List Byte) : List Byte :=
  feistel C [3, 2, 1, 0] sec ident ie pp

/-- The operand checks of `FENC` and `FDEC`, in order, then the cipher on `VAL` in place (R215, R216). -/
def cipherBody (C : Config) (f : List Byte → BitVec 15 → BitVec 5 → List Byte → List Byte) (s : State) : Except CmdError State :=
  if !secretLengthOk s.len.toNat then .error .invalidSecretLength
  else if C.passMax.val < s.plen.toNat then .error .invalidOperand
  else .ok (s.putVal (f s.value s.id s.ie s.passphrase))

/-- `FENC` (R215). -/
def fencBody (C : Config) (s : State) : Except CmdError State := cipherBody C (feistelEncrypt C) s

/-- `FDEC` (R216). -/
def fdecBody (C : Config) (s : State) : Except CmdError State := cipherBody C (feistelDecrypt C) s

/-- `FENC` (R215): encrypt `VAL` in place. -/
def execFenc (s : State) : Host.Outcome State Fault Refusal := finish s (fencBody hardware s)

/-- `FDEC` (R216): decrypt `VAL` in place. -/
def execFdec (s : State) : Host.Outcome State Fault Refusal := finish s (fdecBody hardware s)

end Sys2Proof.Machine
end

