-- ==== Sys2Proof/Machine/Gf256.lean ====
section
/-! DEFINITION. GF(256) arithmetic (40_gf256.md) and GFMUL. -/

namespace Sys2Proof.Machine

/-- `EXP[i mod 255]`: every index into `EXP` is reduced modulo 255 (R121, R181). -/
def expMod (C : Config) (i : Nat) : Byte := C.exp (BitVec.ofNat 8 (i % 255))

/-- `gf_mul(a, b)` (R121): zero test first, then the sum of logarithms modulo 255, formed without loss (R125). -/
def gfMul (C : Config) (a b : Byte) : Byte :=
  if a = 0 ∨ b = 0 then 0 else expMod C ((C.log a).toNat + (C.log b).toNat)

/-- `GFMUL a, b`: `RES <- zext_32(gf_mul(A, B))` (R124). -/
def gfmulBody (C : Config) (a b : Byte) (s : State) : Except CmdError State :=
  .ok (s.putRes ((gfMul C a b).setWidth 32))

/-- `GFMUL` (R124). -/
def execGfmul (a b : Byte) (s : State) : Host.Outcome State Fault Refusal := finish s (gfmulBody hardware a b s)

end Sys2Proof.Machine
end

