-- ==== Sys2Proof/Machine/Shamir.lean ====
section
/-! DEFINITION. Lagrange interpolation and the Shamir engine (43_shamir.md): INTERP, SPLIT, SRECOVER. -/

namespace Sys2Proof.Machine

/-- `DIGEST_INDEX` (R8). -/
def digestIndex : Byte := 254

/-- `SECRET_INDEX` (R8). -/
def secretIndex : Byte := 255

/-! ## Interpolation -/

/-- The log of the Lagrange weight at `q` of the point with x value `xi`, over the x values of the *other* points, in
index order, `+255` keeping every difference non-negative (R181). -/
def logWeight (C : Config) (q xi : Byte) (others : List Byte) : Nat :=
  others.foldl (fun lw xj => (lw + (C.log (q ^^^ xj)).toNat + 255 - (C.log (xi ^^^ xj)).toNat) % 255) 0

/-- The weight of every point (R181: "`lw` does not depend on the lane, so it is computed once per point"). -/
def logWeights (C : Config) (xs : List Byte) (q : Byte) : List Nat :=
  (List.range xs.length).map (fun i => logWeight C q (xs.getD i 0) (xs.eraseIdx i))

/-- One lane of the result: the exclusive or over the points of `EXP[(LOG[y] + lw) mod 255]`, a zero byte
contributing nothing (R181, R184). -/
def laneSum (C : Config) (weights : List Nat) (bytes : List Byte) : Byte :=
  (weights.zip bytes).foldl (fun acc p => if p.2 = 0 then acc else acc ^^^ expMod C ((C.log p.2).toNat + p.1)) 0

/-- `interpolate(xs, ys, q, n, len)` (R181), `n` being the number of points given. The exact-point shortcut, first
match in index order, comes first and is required. -/
def interpolate (C : Config) (pts : List (Byte × List Byte)) (q : Byte) (len : Nat) : List Byte :=
  match pts.find? (fun p => p.1 == q) with
  | some p => p.2.take len
  | none =>
    let weights := logWeights C (pts.map Prod.fst) q
    (List.range len).map (fun k => laneSum C weights (pts.map (fun p => p.2.getD k 0)))

/-! ## Split and recover -/

/-- The digest share's value: the first four bytes of `HMAC(rd, secret)`, then `rd` (R186). -/
def digestShare (C : Config) (rd secret : List Byte) : List Byte := (hmac C rd secret).take 4 ++ rd

/-- The random shares at x = 0, 1, ..., drawn in this order, `len` bytes each (R185). -/
def randomShares (C : Config) (drawn len n : Nat) : List (List Byte) :=
  (List.range n).map (fun i => rng C (drawn + i * len) len)

/-- The `t` points a split's polynomial goes through, `t >= 2`: the `t-2` random shares, the digest share, whose
random part is drawn last, and the secret (R185). -/
def splitPoints (C : Config) (drawn t : Nat) (secret : List Byte) : List (Byte × List Byte) :=
  let len := secret.length
  let r := randomShares C drawn len (t - 2)
  let rd := rng C (drawn + (t - 2) * len) (len - 4)
  ((List.range (t - 2)).map (BitVec.ofNat 8)).zip r
    ++ [(digestIndex, digestShare C rd secret), (secretIndex, secret)]

/-- How many random bytes a split draws (R185, R255). -/
def splitDraws (t len : Nat) : Nat := if t ≤ 1 then 0 else (t - 2) * len + (len - 4)

/-- `shamir_split(count, t, secret)`: the shares at x = 0 to `count-1` (R185), `drawn` random bytes having been drawn
before. -/
def shamirSplit (C : Config) (drawn count t : Nat) (secret : List Byte) : List (List Byte) :=
  if t = 1 then List.replicate count secret
  else
    let pts := splitPoints C drawn t secret
    (List.range count).map (fun x => interpolate C pts (BitVec.ofNat 8 x) secret.length)

/-- `shamir_recover(t, xs, ys, len)` (R187): only the first `t` points are used. -/
def shamirRecover (C : Config) (t : Nat) (pts : List (Byte × List Byte)) (len : Nat) : Except CmdError (List Byte) :=
  if t = 1 then .ok ((pts.headD (0, [])).2.take len)
  else
    let used := pts.take t
    let s := interpolate C used secretIndex len
    let d := interpolate C used digestIndex len
    if (hmac C (d.drop 4) s).take 4 ≠ d.take 4 then .error .digestMismatch else .ok s

/-! ## Commands -/

/-- `INTERP queryX, n` (R190). -/
def interpBody (C : Config) (queryX n : Byte) (s : State) : Except CmdError State :=
  if !inRange 1 16 n.toNat then .error .invalidOperand
  else if !inRange 1 32 s.len.toNat then .error .invalidOperand
  else if !distinct ((s.points n.toNat).map Prod.fst) then .error .invalidOperand
  else .ok (s.putVal (interpolate C (s.points n.toNat) queryX s.len.toNat))

/-- `SPLIT count, threshold` (R191). -/
def splitBody (C : Config) (count threshold : Byte) (s : State) : Except CmdError State :=
  if !thresholdOk threshold.toNat count.toNat then .error .invalidOperand
  else if !inRange 16 32 s.len.toNat then .error .invalidSecretLength
  else .ok (s.putPoints (shamirSplit C s.rngDrawn count.toNat threshold.toNat s.value)
    (s.rngDrawn + splitDraws threshold.toNat s.len.toNat))

/-- `SRECOVER threshold` (R192). -/
def srecoverBody (C : Config) (threshold : Byte) (s : State) : Except CmdError State :=
  if !inRange 1 16 threshold.toNat then .error .invalidOperand
  else if !inRange 16 32 s.len.toNat then .error .invalidSecretLength
  else if 2 ≤ threshold.toNat && !distinct ((s.points threshold.toNat).map Prod.fst) then .error .invalidOperand
  else (shamirRecover C threshold.toNat (s.points threshold.toNat) s.len.toNat).map s.putVal

/-- `INTERP` (R190): evaluate the polynomial through `n` points at `queryX`. -/
def execInterp (queryX n : Byte) (s : State) : Host.Outcome State Fault Refusal :=
  finish s (interpBody hardware queryX n s)

/-- `SPLIT` (R191): split the value in `VAL` into `count` shares. -/
def execSplit (count threshold : Byte) (s : State) : Host.Outcome State Fault Refusal :=
  finish s (splitBody hardware count threshold s)

/-- `SRECOVER` (R192): recover the secret from `threshold` shares. -/
def execSrecover (threshold : Byte) (s : State) : Host.Outcome State Fault Refusal :=
  finish s (srecoverBody hardware threshold s)

end Sys2Proof.Machine
end

