-- ==== Sys2Proof/Machine/Rs1024.lean ====
section
/-! DEFINITION. The RS1024 checksum engine (42_rs1024.md): RSPOLY, RSCREATE, RSVERIFY. -/

namespace Sys2Proof.Machine

/-- One input value into the checksum state (R160): the low 20 bits move up, `v` enters at the bottom, and each set
bit `b` of the old top ten bits brings in `GEN[b]`, `b` in 0 to 9 (C6). -/
def polyStep (C : Config) (state : Checksum) (v : Word) : Checksum :=
  (List.range 10).foldl (fun st b => if (state >>> 20).getLsbD b then st ^^^ C.gen b else st)
    (((state &&& 0xFFFFF) <<< 10) ^^^ v.setWidth 30)

/-- `polymod(values)` (R160). -/
def polymod (C : Config) (values : List Word) : Checksum := values.foldl (polyStep C) 1

/-- `polymod(CUST ++ words)`, the only use the block makes of `polymod` (R162). -/
def customPolymod (C : Config) (words : List Word) : Checksum := polymod C (custWords ++ words)

/-- The three words of a checksum, most significant first (R163). -/
def checksumWords (c : Checksum) : List Word := [c.extractLsb' 20 10, c.extractLsb' 10 10, c.extractLsb' 0 10]

/-- `rs_create(words)` (R163): the last three words replaced by the checksum of the others. -/
def rsCreate (C : Config) (words : List Word) : List Word :=
  let data := words.take (words.length - 3)
  data ++ checksumWords (customPolymod C (data ++ [0, 0, 0]) ^^^ 1)

/-- `rs_verify(words)` (R164). -/
def rsVerify (C : Config) (words : List Word) : Bool := customPolymod C words == 1

/-- `RSPOLY` (R166). -/
def rspolyBody (C : Config) (s : State) : Except CmdError State :=
  if !inRange 0 33 s.wlen.toNat then .error .invalidOperand
  else .ok (s.putRes ((customPolymod C s.words).setWidth 32))

/-- `RSCREATE` (R167). Of the words written the first `WLEN-3` are those that stand there. -/
def rscreateBody (C : Config) (s : State) : Except CmdError State :=
  if !inRange 3 33 s.wlen.toNat then .error .invalidOperand
  else .ok (s.putW (rsCreate C s.words))

/-- `RSVERIFY` (R168): a bad checksum is a result, not an error. -/
def rsverifyBody (C : Config) (s : State) : Except CmdError State :=
  if !inRange 3 33 s.wlen.toNat then .error .invalidOperand
  else .ok (s.putRes (if rsVerify C s.words then 1 else 0))

/-- `RSPOLY` (R166): raw polymod of the customized word sequence. -/
def execRspoly (s : State) : Host.Outcome State Fault Refusal := finish s (rspolyBody hardware s)

/-- `RSCREATE` (R167): the checksum into the last three words. -/
def execRscreate (s : State) : Host.Outcome State Fault Refusal := finish s (rscreateBody hardware s)

/-- `RSVERIFY` (R168): check the checksum of a word sequence. -/
def execRsverify (s : State) : Host.Outcome State Fault Refusal := finish s (rsverifyBody hardware s)

end Sys2Proof.Machine
end

