-- ==== Sys2Proof/Machine/WordCodec.lean ====
section
/-! DEFINITION. The 10-bit word packer and unpacker (41_word_codec.md): WENC, WDEC. -/

namespace Sys2Proof.Machine

/-- `be(bytes)`: the integer whose most significant byte comes first (R12). -/
def be (b : List Byte) : Nat := b.foldl (fun n x => n * 256 + x.toNat) 0

/-- `bytes_be(v, n)` (R12): byte `k` is bits `8*(n-1-k)` and up. -/
def bytesBe (v n : Nat) : List Byte := (List.range n).map (fun k => BitVec.ofNat 8 (v >>> (8 * (n - 1 - k))))

/-- `wc(n) = ceil(8*n / 10)` (R140). -/
def wordCount (n : Nat) : Nat := (8 * n + 9) / 10

/-- `words_of_bytes(b)` (R141): the big-endian integer cut into 10-bit pieces, the padding in front. -/
def wordsOfBytes (b : List Byte) : List Word :=
  let c := wordCount b.length
  (List.range c).map (fun k => BitVec.ofNat 10 (be b >>> (10 * (c - 1 - k))))

/-- The words as one big-endian integer (R142). -/
def wordsBe (w : List Word) : Nat := w.foldl (fun n x => (n <<< 10) ||| x.toNat) 0

/-- Leading bits of `c` words that carry no data: the leftover bits, and the whole leading byte when `c` is a multiple
of 4 (R142, the top-zero-byte heuristic as written, C3; log 13). -/
def leadingBits (c : Nat) : Nat := 10 * c % 8 + (if c % 4 = 0 then 8 else 0)

/-- The number of bytes `c` words decode to, a function of `c` alone (R142). -/
def decodedLength (c : Nat) : Nat := (10 * c - leadingBits c) / 8

/-- `bytes_of_words(w)` (R142). -/
def bytesOfWords (w : List Word) : Except CmdError (List Byte) :=
  let c := w.length
  if wordsBe w >>> (10 * c - leadingBits c) ≠ 0 then .error .invalidPadding
  else .ok (bytesBe (wordsBe w) (decodedLength c))

/-- `WENC` (R146). -/
def wencBody (_ : Config) (s : State) : Except CmdError State :=
  if !inRange 1 32 s.len.toNat then .error .invalidOperand
  else .ok (s.putWords (wordsOfBytes s.value))

/-- `WDEC` (R147). -/
def wdecBody (_ : Config) (s : State) : Except CmdError State :=
  if !inRange 1 26 s.wlen.toNat then .error .invalidOperand
  else (bytesOfWords s.words).map s.putValue

/-- `WENC` (R146): pack `VAL` into words. -/
def execWenc (s : State) : Host.Outcome State Fault Refusal := finish s (wencBody hardware s)

/-- `WDEC` (R147): unpack words into `VAL`. -/
def execWdec (s : State) : Host.Outcome State Fault Refusal := finish s (wdecBody hardware s)

end Sys2Proof.Machine
end

