-- ==== Sys2Proof/Machine/ShareCodec.lean ====
section
/-! DEFINITION. The share mnemonic codec (45_share_codec.md): SHENC, SHDEC, CHECK1. -/

namespace Sys2Proof.Machine

/-- A field stored minus one in 4 bits (R17 "(-1 stored)"; R231). -/
def storeMinusOne (f : BitVec 5) : BitVec 4 := (f - 1).setWidth 4

/-- The field itself, 1 to 16, from its stored form (R235). -/
def loadPlusOne (f : BitVec 4) : BitVec 5 := f.setWidth 5 + 1

/-- The 40-bit metadata string, most significant field first (R231; C1, log 14). -/
def metaBits (h : Share) : BitVec 40 :=
  h.id ++ h.ie ++ h.gi ++ storeMinusOne h.gt ++ storeMinusOne h.gc ++ h.mi ++ storeMinusOne h.mt

/-- The four metadata words: the four 10-bit slices, most significant first (R231). -/
def metaWords (h : Share) : List Word :=
  [(metaBits h).extractLsb' 30 10, (metaBits h).extractLsb' 20 10, (metaBits h).extractLsb' 10 10,
    (metaBits h).extractLsb' 0 10]

/-- `share_encode` (R233). -/
def shareEncode (C : Config) (h : Share) : List Word :=
  rsCreate C (metaWords h ++ wordsOfBytes h.value ++ [0, 0, 0])

/-- The fields of the four metadata words, extracted as R235 writes them; the value is left to the caller. -/
def metaShare (w0 w1 w2 w3 : Word) (value : List Byte) : Share where
  id := (w0.setWidth 15 <<< 5) ||| (w1.extractLsb' 5 5).setWidth 15
  ie := w1.extractLsb' 0 5
  gi := w2.extractLsb' 6 4
  gt := loadPlusOne (w2.extractLsb' 2 4)
  gc := loadPlusOne (((w2.extractLsb' 0 2).setWidth 4 <<< 2) ||| (w3.extractLsb' 8 2).setWidth 4)
  mi := w3.extractLsb' 4 4
  mt := loadPlusOne (w3.extractLsb' 0 4)
  value := value

/-- `w[4..c-4]`: the value words of a mnemonic (R230, R235). -/
def valueWords (w : List Word) : List Word := (w.take (w.length - 3)).drop 4

/-- `share_decode(w)` (R235): the checksum before any field is trusted (R234), then `gt <= gc` (R236), then the
value. -/
def shareDecode (C : Config) (w : List Word) : Except CmdError Share :=
  if !rsVerify C w then .error .invalidMnemonicChecksum
  else
    let h := metaShare (w.getD 0 0) (w.getD 1 0) (w.getD 2 0) (w.getD 3 0)
    if (h []).gc < (h []).gt then .error .invalidGroupThreshold
    else (bytesOfWords (valueWords w)).map h

/-- `SHENC` (R238). -/
def shencBody (C : Config) (s : State) : Except CmdError State :=
  if !thresholdOk s.gt.toNat s.gc.toNat then .error .invalidGroupThreshold
  else if !inRange 1 16 s.mt.toNat then .error .invalidThreshold
  else if !inRange 1 32 s.len.toNat then .error .invalidOperand
  else .ok (s.putWords (shareEncode C s.shareRecord))

/-- The length check and the whole decode that `SHDEC` and `CHECK1` share (R239, R240). -/
def decodeW (C : Config) (s : State) : Except CmdError Share :=
  if !inRange 8 33 s.wlen.toNat then .error .invalidOperand else shareDecode C s.words

/-- `SHDEC` (R239). -/
def shdecBody (C : Config) (s : State) : Except CmdError State := (decodeW C s).map s.putShare

/-- `CHECK1` (R240). -/
def check1Body (C : Config) (s : State) : Except CmdError State := (decodeW C s).map s.putChecked

/-- `SHENC` (R238): encode the Share record in the registers into `W`. -/
def execShenc (s : State) : Host.Outcome State Fault Refusal := finish s (shencBody hardware s)

/-- `SHDEC` (R239): decode the mnemonic in `W` into the registers and `VAL`. -/
def execShdec (s : State) : Host.Outcome State Fault Refusal := finish s (shdecBody hardware s)

/-- `CHECK1` (R240): validate one share and report where it belongs. -/
def execCheck1 (s : State) : Host.Outcome State Fault Refusal := finish s (check1Body hardware s)

end Sys2Proof.Machine
end

