-- ==== Sys2Proof/Machine/Orchestrator.lean ====
section
/-! DEFINITION. The group and member orchestrator (46_orchestrator.md): GENERATE, RECOVER. -/

namespace Sys2Proof.Machine

/-! ## Generation -/

/-- The member level of `generate` (R253): for each group from index `g` on, its share split among its members and
each member's mnemonic, in (group, member) order. `groups` is `(count, threshold)` per group, `gsh` the group shares;
`base` carries the fields every mnemonic shares. -/
def memberMnemonics (C : Config) (base : Share) (drawn g : Nat) : List (Nat × Nat) → List (List Byte) → List (List Word)
  | (count, threshold) :: groups, y :: gsh =>
    let vals := shamirSplit C drawn count threshold y
    let out := vals.zipIdx.map (fun (v, m) =>
      shareEncode C { base with
        gi := BitVec.ofNat 4 g, mi := BitVec.ofNat 4 m, mt := BitVec.ofNat 5 threshold, value := v })
    out ++ memberMnemonics C base (drawn + splitDraws threshold y.length) (g + 1) groups gsh
  | [], _ => []
  | _, [] => []

/-- `generate(ms, ie, id, pp, gt, groups)` (R253; two-level split, C2, log 15). The order of the port calls is R255's:
the cipher, the group-level split, then the groups in index order. -/
def generate (C : Config) (drawn : Nat) (ms : List Byte) (ie : BitVec 5) (ident : BitVec 15) (pp : List Byte)
    (gt gc : BitVec 5) (groups : List (Nat × Nat)) : List (List Word) :=
  let ems := feistelEncrypt C ms ident ie pp
  let gsh := shamirSplit C drawn gc.toNat gt.toNat ems
  let base : Share := { id := ident, ie := ie, gi := 0, gt := gt, gc := gc, mi := 0, mt := 0, value := [] }
  memberMnemonics C base (drawn + splitDraws gt.toNat ems.length) 0 groups gsh

/-- How many random bytes `generate` draws in all (R255). -/
def generateDraws (gt n : Nat) (groups : List (Nat × Nat)) : Nat :=
  splitDraws gt n + (groups.map (fun p => splitDraws p.2 n)).sum

/-- `GENERATE` (R254), the validation in the order of R252. -/
def generateBody (C : Config) (s : State) : Except CmdError State :=
  if !thresholdOk s.gt.toNat s.gc.toNat then .error .invalidGroupThreshold
  else if !secretLengthOk s.len.toNat then .error .invalidSecretLength
  else if !s.groups.all (fun p => thresholdOk p.2 p.1) then .error .invalidThreshold
  else if C.passMax.val < s.plen.toNat then .error .invalidOperand
  else .ok (s.putMnemonics (generate C s.rngDrawn s.value s.ie s.id s.passphrase s.gt s.gc s.groups)
    (s.rngDrawn + generateDraws s.gt.toNat s.len.toNat s.groups))

/-! ## Recovery -/

/-- A group of decoded shares (R264): its index, its member threshold, and its members in order of appearance. -/
structure Group where
  gi : BitVec 4
  mt : BitVec 5
  members : List (BitVec 4 × List Byte)
deriving DecidableEq, Repr

/-- Step 1 for one row (R261): the word count, then the share. -/
def decodeRow (C : Config) (row : BitVec 6 × Vector Word 33) : Except CmdError Share :=
  if !inRange 8 33 row.1.toNat then .error .invalidOperand
  else shareDecode C (row.2.toList.take row.1.toNat)

/-- Step 1 (R261): every row in order, the first failure ends the recovery. -/
def decodeRows (C : Config) : List (BitVec 6 × Vector Word 33) → Except CmdError (List Share)
  | [] => .ok []
  | row :: rows => (decodeRow C row).bind (fun h => (decodeRows C rows).map (h :: ·))

/-- Step 2 (R262): the four fields of a share are those of the first. -/
def sameBackup (h0 h : Share) : Bool :=
  h.id == h0.id && h.ie == h0.ie && h.gt == h0.gt && h.value.length == h0.value.length

/-- Step 3 for one share (R264): into the group of its index, threshold tested first and member index second, or a new
group at the end. -/
def addShare (h : Share) : List Group → Except CmdError (List Group)
  | [] => .ok [{ gi := h.gi, mt := h.mt, members := [(h.mi, h.value)] }]
  | g :: gs =>
    if g.gi = h.gi then
      if h.mt ≠ g.mt then .error .memberThresholdMismatch
      else if g.members.any (fun m => m.1 == h.mi) then .error .duplicateMemberIndex
      else .ok ({ g with members := g.members ++ [(h.mi, h.value)] } :: gs)
    else (addShare h gs).map (g :: ·)

/-- Step 3 (R264): all shares, in order. -/
def groupShares : List Share → List Group → Except CmdError (List Group)
  | [], gs => .ok gs
  | h :: hs, gs => (addShare h gs).bind (groupShares hs)

/-- A group qualifies when its member count is at least its member threshold (R265). -/
def Group.qualifies (g : Group) : Bool := g.mt.toNat ≤ g.members.length

/-- Step 5 for one group (R266): its first `mt` members give the group's point at x = `groupIndex`. -/
def recoverGroup (C : Config) (n : Nat) (g : Group) : Except CmdError (Byte × List Byte) :=
  (shamirRecover C g.mt.toNat ((g.members.take g.mt.toNat).map (fun m => (m.1.setWidth 8, m.2))) n).map
    (fun y => (g.gi.setWidth 8, y))

/-- Step 5 (R266): the used groups in order; the first mismatch ends the recovery. -/
def recoverGroups (C : Config) (n : Nat) : List Group → Except CmdError (List (Byte × List Byte))
  | [] => .ok []
  | g :: gs => (recoverGroup C n g).bind (fun p => (recoverGroups C n gs).map (p :: ·))

/-- Steps 5 to 7 (R266, R267): group points, EMS, master secret. -/
def recoverSecret (C : Config) (gt n : Nat) (ident : BitVec 15) (ie : BitVec 5) (pp : List Byte) (used : List Group) :
    Except CmdError (List Byte) :=
  (recoverGroups C n used).bind (fun pts =>
    (shamirRecover C gt pts n).map (fun ems => feistelDecrypt C ems ident ie pp))

/-- Step 4 (R265): enough groups, and enough groups that qualify; the first `gt` of these are used (R266). -/
def selectGroups (gt : Nat) (gs : List Group) : Except CmdError (List Group) :=
  if gs.length < gt then .error .insufficientShares
  else
    let used := (gs.filter Group.qualifies).take gt
    if used.length < gt then .error .notEnoughMemberShards else .ok used

/-- Steps 2 to 7 on the decoded shares (R262 to R267), `h0` the first of them. -/
def recoverShares (C : Config) (pp : List Byte) (h0 : Share) (hs : List Share) : Except CmdError (List Byte) :=
  let n := h0.value.length
  if !hs.all (sameBackup h0) then .error .inconsistentShareSet
  else if !secretLengthOk n then .error .invalidSecretLength
  else (groupShares (h0 :: hs) []).bind (fun gs =>
    (selectGroups h0.gt.toNat gs).bind (recoverSecret C h0.gt.toNat n h0.id h0.ie pp))

/-- `RECOVER` (R270). (`NSH` is at least 1 where the shares are decoded, so they are never an empty list.) -/
def recoverBody (C : Config) (s : State) : Except CmdError State :=
  if 256 < s.nsh.toNat then .error .invalidOperand
  else if C.passMax.val < s.plen.toNat then .error .invalidOperand
  else if s.nsh = 0 then .error .insufficientShares
  else (decodeRows C s.rows).bind (fun shares =>
    match shares with
    | [] => .error .insufficientShares
    | h0 :: hs => (recoverShares C s.passphrase h0 hs).map s.putValue)

/-- `GENERATE` (R254): encrypt the master secret in `VAL`, split it on two levels, write all mnemonics to `MN`. -/
def execGenerate (s : State) : Host.Outcome State Fault Refusal := finish s (generateBody hardware s)

/-- `RECOVER` (R270): recover the master secret from the mnemonics in `MN`. -/
def execRecover (s : State) : Host.Outcome State Fault Refusal := finish s (recoverBody hardware s)

end Sys2Proof.Machine
end

