-- ==== Sys2Proof/Machine/Dispatch.lean ====
section
/-! DEFINITION. One arm per command (30_encoding.md R92). -/

namespace Sys2Proof.Machine

def exec (i : Instr) (s : State) : Host.Outcome State Fault Refusal :=
  match i with
  | .nop => Sys2Proof.Machine.execNop s
  | .clr => Sys2Proof.Machine.execClr s
  | .gfmul a b => Sys2Proof.Machine.execGfmul a b s
  | .wenc => Sys2Proof.Machine.execWenc s
  | .wdec => Sys2Proof.Machine.execWdec s
  | .rspoly => Sys2Proof.Machine.execRspoly s
  | .rscreate => Sys2Proof.Machine.execRscreate s
  | .rsverify => Sys2Proof.Machine.execRsverify s
  | .interp queryX n => Sys2Proof.Machine.execInterp queryX n s
  | .split count threshold => Sys2Proof.Machine.execSplit count threshold s
  | .srecover threshold => Sys2Proof.Machine.execSrecover threshold s
  | .fenc => Sys2Proof.Machine.execFenc s
  | .fdec => Sys2Proof.Machine.execFdec s
  | .shenc => Sys2Proof.Machine.execShenc s
  | .shdec => Sys2Proof.Machine.execShdec s
  | .check1 => Sys2Proof.Machine.execCheck1 s
  | .generate => Sys2Proof.Machine.execGenerate s
  | .recover => Sys2Proof.Machine.execRecover s

end Sys2Proof.Machine
end

