-- ==== Sys2Proof/Machine/Bus.lean ====
section
/-! DEFINITION. The host's transactions on the block (20_memory.md R62, R63) and the execution of a command word
(30_encoding.md R91). -/

namespace Sys2Proof.Machine

/-- `execute(v)` (R91): an illegal command word fails with `IllegalCommand` and changes only `STATUS` (R94); a legal
one runs its command. -/
def execute (v : CellValue) (s : State) : Host.Outcome State Fault Refusal :=
  match decode v with
  | .ok i => exec i s
  | .error _ => .next (s.fail .illegalCommand)

/-- `READ(addr)` (R62): the value goes to the host, nothing else changes. A reserved address is refused (R65). -/
def readTxn (a : Addr) (s : State) : Host.Outcome State Fault Refusal :=
  match locate hardware a with
  | none => .refused (.reservedAddress a)
  | some l => .next { s with replies := s.replies ++ [s.readLoc l] }

/-- `WRITE(addr, v)` (R63). A reserved address is refused (R65). -/
def writeTxn (a : Addr) (v : CellValue) (s : State) : Host.Outcome State Fault Refusal :=
  match locate hardware a with
  | none => .refused (.reservedAddress a)
  | some .cmd => execute v s
  | some l => .next (s.writeLoc l v)

/-- One host transaction (R62, R63): one atomic step (R71). -/
def transact (t : Txn) (s : State) : Host.Outcome State Fault Refusal :=
  match t with
  | .read a => readTxn a s
  | .write a v => writeTxn a v s

end Sys2Proof.Machine
end

