-- ==== Sys2Proof/Machine/Step.lean ====
section
/-! DEFINITION. One step of the machine: the host's next transaction (10_state.md R20, R21; 20_memory.md R71, R74). -/

namespace Sys2Proof.Machine

/-- One step: the host's next transaction, taken off its script. With none left the block is idle "and holds all its
state" (R313, R342). -/
def step (s : State) : Host.Outcome State Fault Refusal :=
  match s.script with
  | [] => .next s
  | t :: rest => transact t { s with script := rest }

/-- `s` with a write of the command word `w` to `CMD` as the host's next transaction (R24): "a command is the value the
host writes to `CMD`" (R21; log 1). -/
def State.withFetchWord (s : State) (nbits w : Nat) : State :=
  { s with script := .write Loc.cmd.addr (BitVec.ofNat 32 (w % 2 ^ nbits)) :: s.script }

end Sys2Proof.Machine
end

