-- ==== Sys2Proof/Safety.lean ====
section
/-! DEFINITION. The terms claims use: a command's computation under any configuration, which locations a command may
write (10_state.md R36), which errors it may report (60_exceptions.md R307), the invariant every step keeps (R25, R26,
R302), and what makes a run safe (20_memory.md R65). -/

namespace Sys2Proof.Safety

open Sys2Proof.Machine

/-! ## A command under a configuration -/

/-- What a command computes from a state under a configuration (R91 steps 2 and 3): the state with the results, or the
first failing check. `exec` is the same under `hardware`, with the completion of R300 and R303. -/
def commandBody (C : Config) : Instr → State → Except CmdError State
  | .nop => nopBody C
  | .clr => clrBody C
  | .gfmul a b => gfmulBody C a b
  | .wenc => wencBody C
  | .wdec => wdecBody C
  | .rspoly => rspolyBody C
  | .rscreate => rscreateBody C
  | .rsverify => rsverifyBody C
  | .interp q n => interpBody C q n
  | .split c t => splitBody C c t
  | .srecover t => srecoverBody C t
  | .fenc => fencBody C
  | .fdec => fdecBody C
  | .shenc => shencBody C
  | .shdec => shdecBody C
  | .check1 => check1Body C
  | .generate => generateBody C
  | .recover => recoverBody C

/-- Two configurations that differ at most in the table entries no rule reads, `LOG[0]` and `EXP[255]` (U1). -/
structure AgreeOffUnread (C D : Config) : Prop where
  log : ∀ a : Byte, a ≠ 0 → C.log a = D.log a
  exp : ∀ i : Byte, i ≠ 255 → C.exp i = D.exp i
  gen : C.gen = D.gen
  baseIterations : C.baseIterations = D.baseIterations
  passMax : C.passMax = D.passMax
  ports : C.ports = D.ports

/-- What the source needs of the field tables (R123). -/
structure FieldLaws (C : Config) : Prop where
  /-- (a), first half. -/
  exp_log : ∀ a : Byte, a ≠ 0 → C.exp (C.log a) = a
  /-- (a), second half. -/
  log_exp : ∀ i : Byte, i ≠ 255 → C.log (C.exp i) = i
  /-- (a): the tables map between 1..255 and 0..254. -/
  log_range : ∀ a : Byte, a ≠ 0 → C.log a ≠ 255
  exp_range : ∀ i : Byte, i ≠ 255 → C.exp i ≠ 0
  /-- (b). -/
  log_one : C.log 1 = 0
  /-- (c). -/
  distrib : ∀ a b c : Byte, gfMul C a (b ^^^ c) = gfMul C a b ^^^ gfMul C a c

/-! ## The field, by shift and add -/

/-- Doubling modulo x^8 + x^4 + x^3 + x + 1 (R122: 0x11B). -/
def xtime (a : Byte) : Byte := if a.getLsbD 7 then (a <<< 1) ^^^ 0x1B else a <<< 1

/-- Shift-and-add multiplication modulo 0x11B (R122): the doublings of `a` selected by the bits of `b`. -/
def shiftAddMul (a b : Byte) : Byte :=
  (List.range 8).foldl (fun acc i => if b.getLsbD i then acc ^^^ (xtime^[i] a) else acc) 0

/-! ## The algorithms by other means

Each is written from the rule's prose, not from the function it is compared with. -/

/-- The inverse in GF(256) of a non-zero element, as its 254th power. -/
def gfInv (a : Byte) : Byte := (fun x => shiftAddMul x a)^[254] 1

/-- The Lagrange coefficient at `q` of the point at `xi`: the product over the other x values of
`(q ^ xs[j]) / (xi ^ xs[j])` (R183). -/
def lagrangeCoeff (q xi : Byte) (others : List Byte) : Byte :=
  others.foldl (fun acc xj => shiftAddMul acc (shiftAddMul (q ^^^ xj) (gfInv (xi ^^^ xj)))) 1

/-- The value at `q` of the polynomial through the points, lane by lane: the exclusive or of
`ys[i][k]` times its coefficient (R183). -/
def lagrangeValue (pts : List (Byte × List Byte)) (q : Byte) (len : Nat) : List Byte :=
  (List.range len).map (fun k =>
    pts.zipIdx.foldl (fun acc (p, i) =>
      acc ^^^ shiftAddMul (p.2.getD k 0) (lagrangeCoeff q p.1 ((pts.map Prod.fst).eraseIdx i))) 0)

/-- `polymod` on unbounded naturals, as R160 writes it: nothing imposes a width. -/
def polymodNat (gen : Nat → Nat) (values : List Nat) : Nat :=
  values.foldl (fun state v =>
    (List.range 10).foldl (fun st b => if (state >>> 20).testBit b then st ^^^ gen b else st)
      (((state &&& 0xFFFFF) <<< 10) ^^^ v)) 1

/-- The round function with its arguments spelled out (R210 to R212), `n` the length of a half: password, salt,
iteration count. -/
def roundAnswer (C : Config) (s : State) (n : Nat) (i : Byte) (r : List Byte) : List Byte :=
  kdf C (i :: s.pass.toList.take s.plen.toNat)
    ([0x73, 0x68, 0x61, 0x6D, 0x69, 0x72] ++ [BitVec.ofNat 8 (s.id.toNat / 256), BitVec.ofNat 8 (s.id.toNat % 256)] ++ r)
    (C.baseIterations * 2 ^ s.ie.toNat) n

/-- Four rounds unrolled, with the round indices given, and the final swap (R213, R214): `R4 ++ R3`, since the last left
half is the right half before it. -/
def fourRounds (C : Config) (s : State) (i0 i1 i2 i3 : Byte) : List Byte :=
  let n := s.len.toNat / 2
  let l0 := (s.val.toList.take s.len.toNat).take n
  let r0 := (s.val.toList.take s.len.toNat).drop n
  let r1 := List.zipWith (· ^^^ ·) l0 (roundAnswer C s n i0 r0)
  let r2 := List.zipWith (· ^^^ ·) r0 (roundAnswer C s n i1 r1)
  let r3 := List.zipWith (· ^^^ ·) r1 (roundAnswer C s n i2 r2)
  let r4 := List.zipWith (· ^^^ ·) r2 (roundAnswer C s n i3 r3)
  r4 ++ r3

/-- The metadata words by the formulas of R231, on naturals. -/
def metaWordsNat (h : Share) : List Nat :=
  let ident := h.id.toNat
  let gcs := h.gc.toNat - 1
  [ident / 32, ident % 32 * 32 + h.ie.toNat, h.gi.toNat * 64 + (h.gt.toNat - 1) * 4 + gcs / 4,
    gcs % 4 * 256 + h.mi.toNat * 16 + (h.mt.toNat - 1)]

/-- What `share_encode` asks of its arguments (R233). -/
def legalShare (h : Share) : Prop :=
  (1 ≤ h.gt.toNat ∧ h.gt.toNat ≤ 16) ∧ (1 ≤ h.gc.toNat ∧ h.gc.toNat ≤ 16) ∧ (1 ≤ h.mt.toNat ∧ h.mt.toNat ≤ 16) ∧
    1 ≤ h.value.length ∧ h.value.length ≤ 32

/-- A secret length that survives the word codec (R351: "lengths that are not a multiple of 5"). -/
def soundLength (n : Nat) : Prop := 16 ≤ n ∧ n ≤ 32 ∧ n % 2 = 0 ∧ n % 5 ≠ 0

/-- Row `m` of `MN` holds exactly the words `ws`. -/
def holdsMnemonic (s : State) (m : Fin 256) (ws : List Word) : Prop :=
  s.mnlen[m].toNat = ws.length ∧ s.mn[m].toList.take ws.length = ws

/-! ## Decoding and recovering by the rules' words -/

/-- `groupThreshold` of a mnemonic, from word 2 (R235). -/
def gtField (w : List Word) : Nat := (w.getD 2 0).toNat / 4 % 16 + 1

/-- `groupCount` of a mnemonic, from words 2 and 3 (R235). -/
def gcField (w : List Word) : Nat := (w.getD 2 0).toNat % 4 * 4 + (w.getD 3 0).toNat / 256 + 1

/-- The number of bytes in `c` value words (R142). -/
def valueLength (c : Nat) : Nat := (10 * c - (10 * c % 8 + if c % 4 = 0 then 8 else 0)) / 8

/-- The value words of a mnemonic have a leading bit set that carries no data (R142). -/
def paddingSet (w : List Word) : Bool :=
  decide (2 ^ (8 * valueLength (w.length - 7)) ≤ wordsBe ((w.take (w.length - 3)).drop 4))

/-- The error row `m` of `MN` gives `RECOVER`, `none` if it decodes: the word count, the checksum, the group threshold,
the padding, in this order (R261, R235). -/
def rowError (C : Config) (s : State) (m : Fin 256) : Option CmdError :=
  let c := s.mnlen[m].toNat
  let w := s.mn[m].toList.take c
  if c < 8 ∨ 33 < c then some .invalidOperand
  else if rsVerify C w = false then some .invalidMnemonicChecksum
  else if gcField w < gtField w then some .invalidGroupThreshold
  else if paddingSet w = true then some .invalidPadding
  else none

/-- `MN` holds exactly the mnemonics of the shares `hs`, in order, each of them one that decodes: legal, `gt <= gc`, and
of a length that some word count decodes to (R142: no multiple of 5). -/
def holdsShares (s : State) (hs : List Share) : Prop :=
  hs.length ≤ 256 ∧ s.nsh.toNat = hs.length ∧
    ∀ (m : Fin 256) (h : Share), hs[m.val]? = some h →
      legalShare h ∧ h.gt.toNat ≤ h.gc.toNat ∧ h.value.length % 5 ≠ 0 ∧ holdsMnemonic s m (shareEncode hardware h)

/-- Two shares of one backup, by the four fields R262 compares. -/
def sameFour (a b : Share) : Prop := a.id = b.id ∧ a.ie = b.ie ∧ a.gt = b.gt ∧ a.value.length = b.value.length

/-- Two shares that may stand in one recovery: of one group, they agree in the member threshold and differ in the member
index (R264). -/
def compatible (a b : Share) : Prop := a.gi = b.gi → a.mt = b.mt ∧ a.mi ≠ b.mi

/-- The group indices in order of first appearance (R264). -/
def groupOrder (hs : List Share) : List (BitVec 4) := (hs.map Share.gi).eraseDups

/-- The members of a group in order of appearance (R264). -/
def membersOf (hs : List Share) (g : BitVec 4) : List Share := hs.filter (fun h => h.gi == g)

/-- The member threshold of a group, that of its first share (R264). -/
def thresholdOf (hs : List Share) (g : BitVec 4) : Nat := ((membersOf hs g).map (fun h => h.mt.toNat)).headD 0

/-- The groups that reach their member threshold, in order (R265). -/
def fullGroups (hs : List Share) : List (BitVec 4) :=
  (groupOrder hs).filter (fun g => decide (thresholdOf hs g ≤ (membersOf hs g).length))

/-- One recovery from exactly `t` points by the polynomial: the value at 255 if the digest at 254 agrees in its four
bytes; threshold 1 has no digest (R186, R187). -/
def combine (C : Config) (t : Nat) (pts : List (Byte × List Byte)) (len : Nat) : Option (List Byte) :=
  let sec := lagrangeValue pts 255 len
  let dig := lagrangeValue pts 254 len
  if t = 1 then (pts.map Prod.snd).head?
  else if (hmac C (dig.drop 4) sec).take 4 = dig.take 4 then some sec else none

/-- The point a used group gives on the group level, from its first members (R266). -/
def groupPoint (C : Config) (hs : List Share) (len : Nat) (g : BitVec 4) : Option (Byte × List Byte) :=
  let t := thresholdOf hs g
  (combine C t (((membersOf hs g).take t).map (fun h => (h.mi.setWidth 8, h.value))) len).map (fun y => (g.setWidth 8, y))

/-- Recovery on two levels from the first `gt` groups that reach their threshold, `none` for a digest that does not
agree (R266). -/
def combineGroups (C : Config) (hs : List Share) (gt len : Nat) : Option (List Byte) :=
  (((fullGroups hs).take gt).mapM (groupPoint C hs len)).bind (fun pts => combine C gt pts len)

/-! ## Which locations a command may write (R36) -/

/-- Row `m` is among the first `total` and cell `k` among the first `len`. -/
def inRows (total len m k : Nat) : Bool := decide (m < total) && decide (k < len)

/-- The locations a command writes on success, `STATUS` aside, by the table of R36; `s` is the state it starts from. -/
def resultLoc (i : Instr) (s : State) (l : Loc) : Bool :=
  let len := s.len.toNat
  let wlen := s.wlen.toNat
  match i with
  | .nop => false
  | .clr => l.readWrite || l == .res
  | .gfmul _ _ => l == .res
  | .wenc => match l with
    | .w k => decide (k.val < wordCount len)
    | .wlen => true
    | _ => false
  | .wdec => match l with
    | .val k => decide (k.val < decodedLength wlen)
    | .len => true
    | _ => false
  | .rspoly => l == .res
  | .rscreate => match l with
    | .w k => decide (wlen - 3 ≤ k.val) && decide (k.val < wlen)
    | _ => false
  | .rsverify => l == .res
  | .interp _ _ => match l with
    | .val k => decide (k.val < len)
    | _ => false
  | .split count _ => match l with
    | .xs x => decide (x.val < count.toNat)
    | .ys x k => inRows count.toNat len x k
    | _ => false
  | .srecover _ => match l with
    | .val k => decide (k.val < len)
    | _ => false
  | .fenc => match l with
    | .val k => decide (k.val < len)
    | _ => false
  | .fdec => match l with
    | .val k => decide (k.val < len)
    | _ => false
  | .shenc => match l with
    | .w k => decide (k.val < 7 + wordCount len)
    | .wlen => true
    | _ => false
  | .shdec => match l with
    | .id | .ie | .gi | .gt | .gc | .mi | .mt | .len => true
    | .val k => decide (k.val < decodedLength (wlen - 7))
    | _ => false
  | .check1 => match l with
    | .gi | .mi | .mt | .id | .ie => true
    | _ => false
  | .generate => match l with
    | .mn m k => inRows ((s.groups.map Prod.fst).sum) (7 + wordCount len) m k
    | .mnlen m => decide (m.val < (s.groups.map Prod.fst).sum)
    | .nsh => true
    | _ => false
  | .recover => match l with
    | .val k => decide (k.val < decodedLength (s.mnlen[0].toNat - 7))
    | .len => true
    | _ => false

/-- `STATUS`, which every command writes (R36), or a result. -/
def mayWrite (i : Instr) (s : State) (l : Loc) : Bool := l == .status || resultLoc i s l

/-- From `s` to `t` nothing changed but locations marked `written`; the host's side is as it was. -/
def SameBut (written : Loc → Bool) (s t : State) : Prop :=
  (∀ l, written l = false → t.readLoc l = s.readLoc l) ∧ t.script = s.script ∧ t.replies = s.replies

/-! ## Which errors a command may report (R307) -/

/-- The codes of R307 beside `None` and `IllegalCommand`. -/
def reportable : Instr → List CmdError
  | .nop | .clr | .gfmul _ _ => []
  | .wenc | .rspoly | .rscreate | .rsverify | .interp _ _ => [.invalidOperand]
  | .wdec => [.invalidOperand, .invalidPadding]
  | .split _ _ => [.invalidOperand, .invalidSecretLength]
  | .srecover _ => [.invalidOperand, .invalidSecretLength, .digestMismatch]
  | .fenc | .fdec => [.invalidSecretLength, .invalidOperand]
  | .shenc => [.invalidGroupThreshold, .invalidThreshold, .invalidOperand]
  | .shdec | .check1 => [.invalidOperand, .invalidMnemonicChecksum, .invalidGroupThreshold, .invalidPadding]
  | .generate => [.invalidGroupThreshold, .invalidSecretLength, .invalidThreshold, .invalidOperand]
  | .recover =>
    [.invalidOperand, .insufficientShares, .invalidMnemonicChecksum, .invalidGroupThreshold, .invalidPadding,
      .inconsistentShareSet, .invalidSecretLength, .memberThresholdMismatch, .duplicateMemberIndex,
      .notEnoughMemberShards, .digestMismatch]

/-! ## Invariant and safe runs -/

/-- The values `STATUS` may hold: reset, success, or one of the 13 errors (R25, R300, R302: nothing else is ever
written). -/
def legalStatus : List (BitVec 32) := 0 :: statusOk :: allErrors.map statusError

/-- What every step keeps: `STATUS` is one of its legal values, bits 31:30 of `RES` are zero (R166, U10), and before
the first command completes `RES` is 0 (R26: no host write reaches it), and the room behind the passphrase buffer, which
is no storage of the block, keeps 0 (R31; log 9). -/
structure Inv (s : State) : Prop where
  status : s.status ∈ legalStatus
  res : s.res.toNat < 2 ^ 30
  idle : s.status = 0 → s.res = 0
  spare : ∀ k : Fin passWindow, hardware.passMax.val ≤ k.val → s.pass[k] = 0

/-- A run is safe when it never stops, that is when the host's script touches no reserved address (R65: "A host must
not access them"). -/
def safeScript (s : State) : Prop := scriptWf hardware s.script = true

end Sys2Proof.Safety
end

