-- ==== Sys2Proof/Certificates/Slice0/Obligations.lean ====
section
/-! DEFINITION. The statements for the provers. R<n> are the rules of spec/, log <n> is notes/assumptions/<n>.md. Where a
statement needs the default tables (logs 5, 7) its docstring says so. -/

open Sys2Proof Sys2Proof.Machine Sys2Proof.Safety

/-! ## Encoding (30_encoding.md) -/

/-- A command word decodes to a command exactly when it is that command's encoding: no bit is dropped and none is
ignored (R90, R92, R94). -/
def Obligations.DecodeExactlyInvertsEncode : Prop :=
  ∀ (v : CellValue) (i : Instr), decode v = .ok i ↔ encode i = v

/-- R95: a word is a command exactly when it matches a row of the mask/match table, the row is the one that bears the
command's mnemonic, and no word matches two rows. -/
def Obligations.MaskMatchTableDecides : Prop :=
  (∀ v : CellValue, (∃ i, decode v = .ok i) ↔ ∃ r ∈ opcodeRows, r.matches v = true) ∧
    (∀ (v : CellValue) (i : Instr), decode v = .ok i →
      ∀ r ∈ opcodeRows, r.matches v = true → r.mnemonic = i.mnemonic) ∧
    (∀ (v : CellValue) (r q : OpcodeRow), r ∈ opcodeRows → q ∈ opcodeRows → r.matches v = true → q.matches v = true →
      r = q)

/-- R94: a word with `Z != 0`, an unassigned `OPC`, or a non-zero field the command does not take fails with class 7 and
code 13 and changes nothing but `STATUS`; every other word runs a command. -/
def Obligations.IllegalWordsExactly : Prop :=
  ∀ v : CellValue,
    let opc := v.toNat % 256
    let a := v.toNat / 256 % 256
    let b := v.toNat / 65536 % 256
    let z := v.toNat / 16777216
    let illegal : Prop :=
      z ≠ 0 ∨
        opc ∉ [0x00, 0x01, 0x10, 0x20, 0x21, 0x30, 0x31, 0x32, 0x40, 0x41, 0x42, 0x50, 0x51, 0x60, 0x61, 0x62, 0x70, 0x71]
        ∨ (opc ∉ [0x10, 0x40, 0x41] ∧ a ≠ 0) ∨ (opc ∉ [0x10, 0x40, 0x41, 0x42] ∧ b ≠ 0)
    (illegal → ∀ s, execute v s = .next { s with status := 0x00000D73 }) ∧
      (¬ illegal → ∃ i, decode v = .ok i ∧ ∀ s, execute v s = exec i s)

/-- Words written out from R90 and R92 decode to the commands they stand for, one or more per family. -/
def Obligations.WrittenWordsDecode : Prop :=
  decode 0x00000000 = .ok .nop ∧ decode 0x00000001 = .ok .clr ∧ decode 0x00835710 = .ok (.gfmul 0x57 0x83) ∧
    decode 0x00000021 = .ok .wdec ∧ decode 0x00000031 = .ok .rscreate ∧ decode 0x0002FE40 = .ok (.interp 254 2) ∧
    decode 0x00020341 = .ok (.split 3 2) ∧ decode 0x00030042 = .ok (.srecover 3) ∧ decode 0x00000051 = .ok .fdec ∧
    decode 0x00000062 = .ok .check1 ∧ decode 0x00000071 = .ok .recover

/-! ## The host interface (20_memory.md) -/

/-- When the host's next transaction writes to `CMD` a word that decodes to a command, the step is that command on the
state with the rest of the script (R24, R63, R91). The script in the state is the model's form, log 1. -/
def Obligations.StepRunsDecodedCommand : Prop :=
  ∀ (s : State) (rest : List Txn) (v : CellValue) (i : Instr),
    s.script = .write 0x0000 v :: rest → decode v = .ok i → step s = exec i { s with script := rest }

/-- A command word placed as the host's next transaction is decoded and run by the next step, on exactly the state it
was placed in. The placing is the model's own, log 1. -/
def Obligations.PlacedWordRunsItsCommand : Prop :=
  ∀ (i : Instr) (s : State),
    decodeTableWord 32 (encode i).toNat = some i ∧ step (s.withFetchWord 32 (encode i).toNat) = exec i s

/-- No two addresses name the same cell, and every location that is there has its address, for every capacity of the
passphrase buffer (R10, R37, R64). -/
def Obligations.AddressMapIsOneToOne : Prop :=
  ∀ C : Config, (∀ l : Loc, l.mapped C = true → locate C l.addr = some l) ∧
    (∀ (a : Addr) (l : Loc), locate C a = some l → l.mapped C = true ∧ l.addr = a)

/-- The addresses the decoder does not map are exactly the reserved ones R65 lists, for every capacity of the passphrase
buffer, and a read or a write of one is refused by name. -/
def Obligations.ReservedAddressesAreRefused : Prop :=
  (∀ (C : Config) (a : Addr), locate C a = none ↔ reservedAddr C a = true) ∧
    (∀ a : Addr, reservedAddr hardware a = true → ∀ (s : State) (rest : List Txn) (v : CellValue),
      (s.script = .read a :: rest → step s = .refused (.reservedAddress a)) ∧
      (s.script = .write a v :: rest → step s = .refused (.reservedAddress a)))

/-- R62: a read of a location that is there returns the cell zero-extended (below 2 to the cell's width), 0 for `CMD`,
and changes nothing. -/
def Obligations.ReadsReturnTheCell : Prop :=
  ∀ (s : State) (rest : List Txn) (l : Loc), l.mapped hardware = true → s.script = .read l.addr :: rest →
    step s = .next { s with script := rest, replies := s.replies ++ [s.readLoc l] } ∧
      (s.readLoc l).toNat < 2 ^ l.width ∧ s.readLoc .cmd = 0

/-- R63: a write to a read-write cell keeps the low `width` bits and touches nothing else, so every location reads the
value of its latest write; a write to `STATUS` or `RES` is ignored; a write to `CMD` executes the word. -/
def Obligations.WritesStoreLowBits : Prop :=
  ∀ (s : State) (rest : List Txn) (l : Loc) (v : CellValue), l.mapped hardware = true →
    s.script = .write l.addr v :: rest →
    (l.readWrite = true →
      ∃ t, step s = .next t ∧ (t.readLoc l).toNat = v.toNat % 2 ^ l.width ∧
        (∀ l', l' ≠ l → t.readLoc l' = s.readLoc l') ∧
        t.script = rest ∧ t.replies = s.replies ∧ t.rngDrawn = s.rngDrawn) ∧
    (l = .status ∨ l = .res → step s = .next { s with script := rest }) ∧
    (l = .cmd → step s = execute v { s with script := rest })

/-! ## Reset and invariants -/

/-- Every location of the cell space reads 0 after reset (R50, R341). -/
def Obligations.ResetReadsZero : Prop := ∀ l : Loc, State.reset.readLoc l = 0

/-- The invariant holds after reset. -/
def Obligations.ResetMeetsInvariant : Prop := Inv State.reset

/-- Every step keeps the invariant: `STATUS` holds 0, success or one of the 13 errors, bits 31:30 of `RES` are zero, and
before the first command `RES` is 0 (R25, R26, R302). That the room behind the passphrase buffer, no storage of the block,
keeps 0 is the model's form, log 9. -/
def Obligations.StepKeepsInvariant : Prop := ∀ s t : State, Inv s → step s = .next t → Inv t

/-- `STATUS` is "written by every command when it completes, and by nothing else" (R25); the same of `RES` (R26, R63): a step
that is not a write to `CMD` leaves both. It leaves the count of random bytes too, since only commands call the port
(R78); that counter and the script are the model's form, logs 3 and 1. -/
def Obligations.OnlyCommandsWriteStatusAndRes : Prop :=
  ∀ s t : State, step s = .next t → (∀ v rest, s.script ≠ .write 0x0000 v :: rest) →
    t.status = s.status ∧ t.res = s.res ∧ t.rngDrawn = s.rngDrawn

/-- `DONE` is set by every command word written, legal or not, and never cleared by a step (R38: "cleared only by
reset"). -/
def Obligations.DoneIsSetAndStays : Prop :=
  ∀ s t : State, step s = .next t →
    (s.done = true → t.done = true) ∧ (∀ v rest, s.script = .write 0x0000 v :: rest → t.done = true)

/-- A host script that touches no reserved address runs to any depth without a stop, one transaction a step. -/
def Obligations.SafeScriptsNeverStop : Prop :=
  ∀ (k : Nat) (s : State), safeScript s → ∃ t : State, Sys2Proof.core.run k s = .next t ∧ t.script = s.script.drop k

/-- A step stops only at a reserved address: never by a fault, and by no other refusal (R65, R303, R311). -/
def Obligations.StopsOnlyAtReservedAddresses : Prop :=
  ∀ s : State, (∀ f, step s ≠ .fault f) ∧
    (∀ r, step s = .refused r → ∃ a rest, reservedAddr hardware a = true ∧ r = .reservedAddress a ∧
      (s.script = .read a :: rest ∨ ∃ v, s.script = .write a v :: rest))

/-! ## How a command ends (60_exceptions.md) -/

/-- The 13 status words of R302. -/
def Obligations.ErrorStatusWords : Prop :=
  allErrors.map statusError =
    [0x00000123, 0x00000233, 0x00000313, 0x00000443, 0x00000563, 0x00000663, 0x00000753, 0x00000843, 0x00000943,
      0x00000A13, 0x00000B13, 0x00000C13, 0x00000D73] ∧ statusOk = 0x00000001

/-- Every command, from every state, completes: with its results and `STATUS` 0x00000001, or with one of the errors R307
allows it and nothing changed but `STATUS` (R300, R303, R304, R307). -/
def Obligations.CommandsSucceedOrFailClean : Prop :=
  ∀ (i : Instr) (s : State),
    (∃ t, exec i s = .next t ∧ t.status = 0x00000001) ∨
      (∃ e ∈ reportable i, exec i s = .next { s with status := statusError e })

/-- R36, R37: a command changes no location the table of R36 does not name for it, and the host's side never; only
`SPLIT` and `GENERATE` draw random bytes (R78, R304). -/
def Obligations.CommandsWriteOnlyTheirLocations : Prop :=
  ∀ (i : Instr) (s t : State), exec i s = .next t →
    SameBut (mayWrite i s) s t ∧
      ((∀ c k, i ≠ .split c k) → i ≠ .generate → t.rngDrawn = s.rngDrawn)

/-- Two configurations that differ only in `LOG[0]` and `EXP[255]` compute the same results for every command from every
state: "no result may depend on them" (U1; R121, R182). -/
def Obligations.UnreadTableEntriesDoNotMatter : Prop :=
  ∀ (C D : Config), AgreeOffUnread C D → ∀ (i : Instr) (s : State), commandBody C i s = commandBody D i s

/-! ## Housekeeping (47_housekeeping.md) -/

/-- R290: `NOP` changes nothing but `STATUS`. -/
def Obligations.NopOnlySetsStatus : Prop := ∀ s : State, exec .nop s = .next { s with status := 0x00000001 }

/-- R291: after `CLR` every location except `STATUS` reads 0, `STATUS` is 0x00000001, and `CLR` again changes nothing. -/
def Obligations.ClrZeroesEveryCell : Prop :=
  ∀ s : State, ∃ t, exec .clr s = .next t ∧ t.status = 0x00000001 ∧ (∀ l, l ≠ .status → t.readLoc l = 0) ∧
    t.script = s.script ∧ t.replies = s.replies ∧ t.rngDrawn = s.rngDrawn ∧ exec .clr t = .next t

/-! ## GF(256) (40_gf256.md) -/

/-- `GFMUL` leaves in `RES` the product modulo x^8 + x^4 + x^3 + x + 1 by shift and add, for all 65536 operand pairs,
and changes nothing else but `STATUS` (R122, R124). Rests on the default tables, log 5. -/
def Obligations.GfmulIsShiftAndAdd : Prop :=
  ∀ (a b : Byte) (s : State),
    exec (.gfmul a b) s = .next { s with res := (shiftAddMul a b).setWidth 32, status := 0x00000001 }

/-- The default tables are inverse bijections, `LOG[1]` is 0, and the product distributes over exclusive or (R123).
About the default tables, log 5. -/
def Obligations.DefaultTablesMeetFieldLaws : Prop := FieldLaws hardware

/-! ## Word codec (41_word_codec.md) -/

/-- R146: `WENC` on 1 to 32 bytes leaves in `W` `wc(LEN)` words that are the same big-endian integer as the bytes, and
touches nothing else; any other `LEN` fails with `InvalidOperand`. -/
def Obligations.WencPacksTheInteger : Prop :=
  ∀ s : State,
    (1 ≤ s.len.toNat ∧ s.len.toNat ≤ 32 →
      ∃ t, exec .wenc s = .next t ∧ t.status = 0x00000001 ∧ t.wlen.toNat = (8 * s.len.toNat + 9) / 10 ∧
        t.words.length = t.wlen.toNat ∧ wordsBe t.words = be s.value ∧ SameBut (mayWrite .wenc s) s t ∧
        t.rngDrawn = s.rngDrawn) ∧
    (¬ (1 ≤ s.len.toNat ∧ s.len.toNat ≤ 32) → exec .wenc s = .next { s with status := 0x00000C13 })

/-- R147: `WDEC` on 1 to 26 words whose leading bits are zero leaves in `VAL` the bytes that are the same big-endian
integer; with a leading bit set it fails with `InvalidPadding`, with any other `WLEN` with `InvalidOperand`. -/
def Obligations.WdecUnpacksTheInteger : Prop :=
  ∀ s : State,
    let c := s.wlen.toNat
    let n := (10 * c - (10 * c % 8 + if c % 4 = 0 then 8 else 0)) / 8
    (1 ≤ c ∧ c ≤ 26 → wordsBe s.words < 2 ^ (8 * n) →
      ∃ t, exec .wdec s = .next t ∧ t.status = 0x00000001 ∧ t.len.toNat = n ∧ t.value.length = n ∧
        be t.value = wordsBe s.words ∧ SameBut (mayWrite .wdec s) s t ∧ t.rngDrawn = s.rngDrawn) ∧
    (1 ≤ c ∧ c ≤ 26 → 2 ^ (8 * n) ≤ wordsBe s.words → exec .wdec s = .next { s with status := 0x00000233 }) ∧
    (¬ (1 ≤ c ∧ c ≤ 26) → exec .wdec s = .next { s with status := 0x00000C13 })

/-- R143: unpacking what was packed gives the bytes back if and only if their number is not a multiple of 5; else it
fails with `InvalidPadding` when the first byte is not zero and returns the rest when it is. -/
def Obligations.WordCodecRoundTrip : Prop :=
  ∀ (x : Byte) (b : List Byte),
    bytesOfWords (wordsOfBytes (x :: b)) =
      if (b.length + 1) % 5 ≠ 0 then .ok (x :: b) else if x ≠ 0 then .error .invalidPadding else .ok b

/-! ## RS1024 (42_rs1024.md) -/

/-- R160: the 30-bit checksum state loses nothing: `polymod` equals the same recurrence on unbounded naturals, for every
generator table, and stays below 2^30. -/
def Obligations.PolymodNeverTruncates : Prop :=
  ∀ (C : Config) (values : List Word),
    (polymod C values).toNat = polymodNat (fun b => (C.gen b).toNat) (values.map BitVec.toNat)

/-- R166: `RSPOLY` on 0 to 33 words leaves the polymod of "shamir" and the words in `RES`; 34 or more fail. The default
generator table is log 7. -/
def Obligations.RspolyResult : Prop :=
  ∀ s : State,
    (s.wlen.toNat ≤ 33 → ∃ t, exec .rspoly s = .next t ∧ t.status = 0x00000001 ∧
      t.res.toNat = polymodNat (fun b => (genTable b).toNat)
        ([115, 104, 97, 109, 105, 114] ++ s.words.map BitVec.toNat) ∧
      SameBut (mayWrite .rspoly s) s t ∧ t.rngDrawn = s.rngDrawn) ∧
    (33 < s.wlen.toNat → exec .rspoly s = .next { s with status := 0x00000C13 })

/-- R165(a): what `rs_create` returns verifies, for every sequence of three or more words and every generator table. -/
def Obligations.CreatedChecksumVerifies : Prop :=
  ∀ (C : Config) (w : List Word), 3 ≤ w.length → rsVerify C (rsCreate C w) = true

/-- R165(b): `polymod` is affine over exclusive or, for every generator table. -/
def Obligations.PolymodIsAffine : Prop :=
  ∀ (C : Config) (u v : List Word), u.length = v.length →
    polymod C (List.zipWith (· ^^^ ·) u v) = polymod C u ^^^ polymod C v ^^^ polymod C (List.replicate u.length 0)

/-- R165(c): flipping any single bit in a word sequence that verifies makes it not verify. Rests on the default
generator table, log 7. -/
def Obligations.SingleBitFlipIsDetected : Prop :=
  ∀ (w : List Word) (k : Fin w.length) (bit : Fin 10), rsVerify hardware w = true →
    rsVerify hardware (w.set k (w[k] ^^^ BitVec.twoPow 10 bit)) = false

/-- R167, R168: on 3 to 33 words `RSCREATE` completes, keeps `WLEN` and the words before the last three, and `RSVERIFY`
after it completes with `RES` = 1. -/
def Obligations.RscreateThenRsverifyGivesOne : Prop :=
  ∀ s : State, 3 ≤ s.wlen.toNat → s.wlen.toNat ≤ 33 →
    ∃ t u, exec .rscreate s = .next t ∧ t.status = 0x00000001 ∧ SameBut (mayWrite .rscreate s) s t ∧
      t.rngDrawn = s.rngDrawn ∧ exec .rsverify t = .next u ∧ u = { t with res := 1, status := 0x00000001 }

/-- On 3 to 33 words `RSVERIFY` succeeds whether the checksum is good or bad, with `RES` 1 or 0 as the polymod is 1 or not
(R160, R162, R164, R168). `RSCREATE` and `RSVERIFY` with any other `WLEN` fail with `InvalidOperand` (R167, R168). The
polymod is computed with the default generator table, log 7. -/
def Obligations.RsverifyReportsInRes : Prop :=
  ∀ s : State,
    (3 ≤ s.wlen.toNat ∧ s.wlen.toNat ≤ 33 →
      exec .rsverify s = .next { s with
        res := if polymodNat (fun b => (genTable b).toNat)
            ([115, 104, 97, 109, 105, 114] ++ s.words.map BitVec.toNat) = 1 then 1 else 0,
        status := 0x00000001 }) ∧
    (¬ (3 ≤ s.wlen.toNat ∧ s.wlen.toNat ≤ 33) →
      exec .rsverify s = .next { s with status := 0x00000C13 } ∧
        exec .rscreate s = .next { s with status := 0x00000C13 })

/-! ## Shamir engine (43_shamir.md) -/

/-- R183: with pairwise different x values `interpolate`, its exact-point shortcut included, is the value of the one
polynomial through the points, lane by lane, in GF(256) by shift and add. Rests on the default tables, log 5. -/
def Obligations.InterpolationIsLagrange : Prop :=
  ∀ (p : Ports) (pts : List (Byte × List Byte)) (q : Byte) (len : Nat),
    (pts.map Prod.fst).Nodup → (∀ pt ∈ pts, pt.2.length = len) →
      interpolate (configWith p) pts q len = lagrangeValue pts q len

/-- R190: `INTERP` on 1 to 16 points with different x values and `LEN` 1 to 32 leaves the polynomial's value at `queryX`
in `VAL[0..LEN-1]` and touches nothing else; otherwise it fails with `InvalidOperand`. The field is that of the default
tables, log 5. -/
def Obligations.InterpEvaluatesThePolynomial : Prop :=
  ∀ (q n : Byte) (s : State),
    let ok : Prop := (1 ≤ n.toNat ∧ n.toNat ≤ 16) ∧ (1 ≤ s.len.toNat ∧ s.len.toNat ≤ 32) ∧
      ∀ i j : Fin 16, i < j → j.val < n.toNat → s.xs[i] ≠ s.xs[j]
    (ok → ∃ t, exec (.interp q n) s = .next t ∧ t.status = 0x00000001 ∧
      t.value = lagrangeValue (s.points n.toNat) q s.len.toNat ∧ SameBut (mayWrite (.interp q n) s) s t ∧
      t.rngDrawn = s.rngDrawn) ∧
    (¬ ok → exec (.interp q n) s = .next { s with status := 0x00000C13 })

/-- R184: byte `k` of the result depends only on byte `k` of each value, on the x values and on `q`. -/
def Obligations.LanesAreIndependent : Prop :=
  ∀ (C : Config) (pts pts' : List (Byte × List Byte)) (q : Byte) (len k : Nat), k < len →
    pts.map Prod.fst = pts'.map Prod.fst → (∀ pt ∈ pts, pt.2.length = len) → (∀ pt ∈ pts', pt.2.length = len) →
    pts.map (fun pt => pt.2[k]?) = pts'.map (fun pt => pt.2[k]?) →
      (interpolate C pts q len)[k]? = (interpolate C pts' q len)[k]?

/-- R191: `SPLIT` with `1 <= threshold <= count <= 16` and `LEN` 16 to 32 writes `XS[x]` = x and share `x` in row `x`
for `x` below `count`, draws `splitDraws` random bytes, and touches nothing else; the checks fail in the rule's order.
The random bytes stand at the counter, log 3. -/
def Obligations.SplitWritesTheShares : Prop :=
  ∀ (c k : Byte) (s : State),
    let thr : Prop := 1 ≤ k.toNat ∧ k.toNat ≤ c.toNat ∧ c.toNat ≤ 16
    let lenOk : Prop := 16 ≤ s.len.toNat ∧ s.len.toNat ≤ 32
    (thr ∧ lenOk → ∃ t, exec (.split c k) s = .next t ∧ t.status = 0x00000001 ∧
      t.points c.toNat = (List.range c.toNat).map (fun x => (BitVec.ofNat 8 x,
        (shamirSplit hardware s.rngDrawn c.toNat k.toNat s.value).getD x [])) ∧
      SameBut (mayWrite (.split c k) s) s t ∧ t.rngDrawn = s.rngDrawn + splitDraws k.toNat s.len.toNat) ∧
    (¬ thr → exec (.split c k) s = .next { s with status := 0x00000C13 }) ∧
    (thr ∧ ¬ lenOk → exec (.split c k) s = .next { s with status := 0x00000A13 })

/-- R185, R186: with threshold 1 every share is the secret; with threshold 2 or more the first `threshold-2` shares are
the random ones in the order drawn, and the polynomial through the shares at 0 to `threshold-1` has the secret at 255 and
the digest share at 254: four bytes of `HMAC(rd, secret)`, then the `len-4` bytes `rd` drawn last. Every share, those at
`threshold` to `count-1` included, is that polynomial's value at its x. For every binding of the ports; rests on the
default tables, log 5; the draws stand at a counter, log 3. -/
def Obligations.SharesLieOnThePolynomial : Prop :=
  ∀ (p : Ports) (drawn count t : Nat) (secret : List Byte),
    1 ≤ t → t ≤ count → count ≤ 16 → 16 ≤ secret.length → secret.length ≤ 32 →
      let C := configWith p
      let shares := shamirSplit C drawn count t secret
      let rd := rng C (drawn + (t - 2) * secret.length) (secret.length - 4)
      let pts := ((List.range t).map (BitVec.ofNat 8)).zip shares
      shares.length = count ∧
      (∀ x, x < count → shares[x]? = some (lagrangeValue pts (BitVec.ofNat 8 x) secret.length)) ∧
      (t = 1 → shares = List.replicate count secret) ∧
      (2 ≤ t →
        (∀ x, x < t - 2 → shares[x]? = some (rng C (drawn + x * secret.length) secret.length)) ∧
        lagrangeValue pts 255 secret.length = secret ∧
        lagrangeValue pts 254 secret.length = (hmac C rd secret).take 4 ++ rd)

/-- R188(a): any `threshold` or more of the shares of a split, in any order, recover the secret exactly, for every
`1 <= threshold <= count <= 16`, every secret of 16 to 32 bytes, every answer of the random source and every `HMAC`.
Rests on the default tables, log 5. -/
def Obligations.AnyThresholdSharesRecover : Prop :=
  ∀ (p : Ports) (drawn count t : Nat) (secret : List Byte) (chosen : List Nat),
    1 ≤ t → t ≤ count → count ≤ 16 → 16 ≤ secret.length → secret.length ≤ 32 →
    chosen.Nodup → (∀ x ∈ chosen, x < count) → t ≤ chosen.length →
      shamirRecover (configWith p) t
        (chosen.map (fun x => (BitVec.ofNat 8 x, (shamirSplit (configWith p) drawn count t secret).getD x [])))
        secret.length = .ok secret

/-- `SRECOVER` after `SPLIT` with the same threshold, `VAL` overwritten by anything in between, completes and leaves the
secret in `VAL`, whatever the random source and `HMAC` answer: it comes from the rows alone. Nothing but `VAL[0..LEN-1]` and
`STATUS` can differ from the state before the recovery (R188(a), R191, R192). Rests on the default tables, log 5. -/
def Obligations.SplitThenSrecoverRestores : Prop :=
  ∀ (c k : Byte) (s : State), 1 ≤ k.toNat → k.toNat ≤ c.toNat → c.toNat ≤ 16 → 16 ≤ s.len.toNat → s.len.toNat ≤ 32 →
    ∃ t, exec (.split c k) s = .next t ∧ t.status = 0x00000001 ∧
      ∀ v : Vector Byte 32, ∃ u, exec (.srecover k) { t with val := v } = .next u ∧ u.status = 0x00000001 ∧
        u.value = s.value ∧ SameBut (mayWrite (.srecover k) t) { t with val := v } u ∧ u.rngDrawn = t.rngDrawn

/-- R192: `SRECOVER` with threshold 1 copies row 0 to `VAL` and cannot fail the digest; with 2 or more and different x
values it succeeds exactly when the recomputed digest agrees in its four bytes, else it fails with `DigestMismatch`
and `VAL` unchanged. The field is that of the default tables, log 5. -/
def Obligations.SrecoverChecksTheDigest : Prop :=
  ∀ (k : Byte) (s : State), 1 ≤ k.toNat → k.toNat ≤ 16 → 16 ≤ s.len.toNat → s.len.toNat ≤ 32 →
    (∀ i j : Fin 16, i < j → j.val < k.toNat → s.xs[i] ≠ s.xs[j]) →
      let n := s.len.toNat
      let sec := if k = 1 then s.ys[0].toList.take n else lagrangeValue (s.points k.toNat) 255 n
      let dig := lagrangeValue (s.points k.toNat) 254 n
      if k = 1 ∨ (hmac hardware (dig.drop 4) sec).take 4 = dig.take 4 then
        ∃ t, exec (.srecover k) s = .next t ∧ t.status = 0x00000001 ∧ t.value = sec ∧
          SameBut (mayWrite (.srecover k) s) s t ∧ t.rngDrawn = s.rngDrawn
      else exec (.srecover k) s = .next { s with status := 0x00000753 }

/-- R192: the operand checks of `SRECOVER` in the rule's order: threshold, length, equal x values (these only from
threshold 2 on). -/
def Obligations.SrecoverOperandChecks : Prop :=
  ∀ (k : Byte) (s : State),
    let thr : Prop := 1 ≤ k.toNat ∧ k.toNat ≤ 16
    let lenOk : Prop := 16 ≤ s.len.toNat ∧ s.len.toNat ≤ 32
    (¬ thr → exec (.srecover k) s = .next { s with status := 0x00000C13 }) ∧
    (thr ∧ ¬ lenOk → exec (.srecover k) s = .next { s with status := 0x00000A13 }) ∧
    (thr ∧ lenOk → (∃ i j : Fin 16, i < j ∧ j.val < k.toNat ∧ s.xs[i] = s.xs[j]) →
      exec (.srecover k) s = .next { s with status := 0x00000C13 })

/-! ## Feistel cipher (44_feistel.md) -/

/-- `FENC` runs the rounds 0, 1, 2, 3 and `FDEC` the rounds 3, 2, 1, 0, each with password, salt, iteration count and
output length as R210 to R212 give them, the halves swapped at the end (R214 to R216): on every legal `LEN` and `PLEN` they
complete, whatever the passphrase, identifier and exponent (R218), and touch nothing but `VAL[0..LEN-1]` and `STATUS`. -/
def Obligations.CipherRunsFourRounds : Prop :=
  ∀ s : State, 16 ≤ s.len.toNat → s.len.toNat ≤ 32 → s.len.toNat % 2 = 0 → s.plen.toNat ≤ 128 →
    (∃ t, exec .fenc s = .next t ∧ t.status = 0x00000001 ∧ t.value = fourRounds hardware s 0 1 2 3 ∧
      SameBut (mayWrite .fenc s) s t ∧ t.rngDrawn = s.rngDrawn) ∧
    (∃ t, exec .fdec s = .next t ∧ t.status = 0x00000001 ∧ t.value = fourRounds hardware s 3 2 1 0 ∧
      SameBut (mayWrite .fdec s) s t ∧ t.rngDrawn = s.rngDrawn)

/-- R215, R216: the two checks of `FENC` and `FDEC`, in order: an odd or out-of-range `LEN`, then `PLEN` above
`PASS_MAX` (128 is log 9). -/
def Obligations.CipherOperandChecks : Prop :=
  ∀ s : State,
    let lenOk : Prop := 16 ≤ s.len.toNat ∧ s.len.toNat ≤ 32 ∧ s.len.toNat % 2 = 0
    (¬ lenOk → exec .fenc s = .next { s with status := 0x00000A13 } ∧
      exec .fdec s = .next { s with status := 0x00000A13 }) ∧
    (lenOk ∧ 128 < s.plen.toNat → exec .fenc s = .next { s with status := 0x00000C13 } ∧
      exec .fdec s = .next { s with status := 0x00000C13 })

/-- R217: `feistel_decrypt` undoes `feistel_encrypt` and the other way round, for every even-length secret, identifier,
exponent, passphrase, and whatever function the `KDF` port is. -/
def Obligations.DecryptInvertsEncrypt : Prop :=
  ∀ (C : Config) (sec : List Byte) (ident : BitVec 15) (ie : BitVec 5) (pp : List Byte), sec.length % 2 = 0 →
    feistelDecrypt C (feistelEncrypt C sec ident ie pp) ident ie pp = sec ∧
      feistelEncrypt C (feistelDecrypt C sec ident ie pp) ident ie pp = sec

/-! ## Share codec (45_share_codec.md) -/

/-- R231: the four metadata words are those of the rule's formulas; each is below 1024 by its type. -/
def Obligations.MetadataWordsByFormula : Prop :=
  ∀ h : Share, legalShare h → (metaWords h).map BitVec.toNat = metaWordsNat h

/-- R237: decoding an encoded share gives its arguments when `gt <= gc` and the value's length is not a multiple of 5;
with a length that is, it fails with `InvalidPadding` or loses its first, zero, byte; with `gt > gc` it fails with
`InvalidGroupThreshold`. Conversely every word sequence of 8 words or more that decodes re-encodes to itself. For every
generator table. -/
def Obligations.ShareCodecRoundTrip : Prop :=
  (∀ (C : Config) (h : Share) (x : Byte) (b : List Byte), legalShare h → h.value = x :: b →
    shareDecode C (shareEncode C h) =
      if h.gc.toNat < h.gt.toNat then .error .invalidGroupThreshold
      else if h.value.length % 5 ≠ 0 then .ok h
      else if x ≠ 0 then .error .invalidPadding
      else .ok { h with value := b }) ∧
  (∀ (C : Config) (w : List Word) (h : Share), 8 ≤ w.length → shareDecode C w = .ok h → shareEncode C h = w)

/-- R238: `SHENC` with legal registers writes the mnemonic of the Share record, 7 + wc(LEN) words that verify, and
touches nothing else; the checks fail in the rule's order. -/
def Obligations.ShencEncodesTheRecord : Prop :=
  ∀ s : State,
    let grp : Prop := 1 ≤ s.gt.toNat ∧ s.gt.toNat ≤ s.gc.toNat ∧ s.gc.toNat ≤ 16
    let mem : Prop := 1 ≤ s.mt.toNat ∧ s.mt.toNat ≤ 16
    let lenOk : Prop := 1 ≤ s.len.toNat ∧ s.len.toNat ≤ 32
    (grp ∧ mem ∧ lenOk → ∃ t, exec .shenc s = .next t ∧ t.status = 0x00000001 ∧
      t.wlen.toNat = 7 + (8 * s.len.toNat + 9) / 10 ∧ t.words.length = t.wlen.toNat ∧
      (t.words.take 4).map BitVec.toNat = metaWordsNat s.shareRecord ∧
      wordsBe (valueWords t.words) = be s.value ∧ rsVerify hardware t.words = true ∧
      SameBut (mayWrite .shenc s) s t ∧ t.rngDrawn = s.rngDrawn) ∧
    (¬ grp → exec .shenc s = .next { s with status := 0x00000313 }) ∧
    (grp ∧ ¬ mem → exec .shenc s = .next { s with status := 0x00000B13 }) ∧
    (grp ∧ mem ∧ ¬ lenOk → exec .shenc s = .next { s with status := 0x00000C13 })

/-- R239, R240 with R235, R236: when `W` holds the mnemonic of a legal share, `SHDEC` writes its seven fields, its value
and its length, and `CHECK1` five fields and neither `GT`, `GC`, `VAL` nor `LEN`; both fail with `InvalidGroupThreshold`
when `gt > gc`. A value whose length is a multiple of 5 fails with `InvalidPadding`, or loses its first byte when that is
zero (R143). Rests on the default generator table, log 7. -/
def Obligations.ShdecAndCheck1ReadTheShare : Prop :=
  ∀ (s : State) (h : Share) (x : Byte) (b : List Byte), legalShare h → h.value = x :: b →
    s.wlen.toNat = (shareEncode hardware h).length → s.words = shareEncode hardware h →
      let whole : Prop := h.value.length % 5 ≠ 0
      let v := if h.value.length % 5 ≠ 0 then h.value else b
      (h.gc.toNat < h.gt.toNat → exec .shdec s = .next { s with status := 0x00000313 } ∧
        exec .check1 s = .next { s with status := 0x00000313 }) ∧
      (h.gt.toNat ≤ h.gc.toNat ∧ ¬ whole ∧ x ≠ 0 → exec .shdec s = .next { s with status := 0x00000233 } ∧
        exec .check1 s = .next { s with status := 0x00000233 }) ∧
      (h.gt.toNat ≤ h.gc.toNat ∧ (whole ∨ x = 0) →
        exec .shdec s = .next { s with
          id := h.id, ie := h.ie, gi := h.gi, gt := h.gt, gc := h.gc, mi := h.mi, mt := h.mt,
          val := overwrite s.val v, len := BitVec.ofNat 6 v.length, status := 0x00000001 } ∧
        exec .check1 s = .next { s with
          gi := h.gi, mi := h.mi, mt := h.mt, id := h.id, ie := h.ie, status := 0x00000001 })

/-- R234, R235, R239, R240, R306: what `SHDEC` and `CHECK1` do with any words at all. A word count outside 8 to 33, then a
checksum that does not verify, whatever the fields and the padding are, then `gt > gc`, whatever the padding is, then a
leading bit of the value words that carries no data: each is its error and no register is written. Else both complete,
`SHDEC` with the fields cut from the words by the formulas of R235 and the value words' integer in `VAL`, `CHECK1` with five
of the fields. Rests on the default generator table, log 7. -/
def Obligations.ChecksumComesBeforeTrust : Prop :=
  ∀ s : State,
    let lenOk : Prop := 8 ≤ s.wlen.toNat ∧ s.wlen.toNat ≤ 33
    let w := s.words
    let good : Prop := lenOk ∧ rsVerify hardware w = true
    let word := fun i : Nat => (w.getD i 0).toNat
    let bothFail := fun status : BitVec 32 =>
      exec .shdec s = .next { s with status := status } ∧ exec .check1 s = .next { s with status := status }
    let five := fun t : State => t.status = 0x00000001 ∧ t.id.toNat = word 0 * 32 + word 1 / 32 ∧
      t.ie.toNat = word 1 % 32 ∧ t.gi.toNat = word 2 / 64 ∧ t.mi.toNat = word 3 / 16 % 16 ∧
      t.mt.toNat = word 3 % 16 + 1 ∧ t.rngDrawn = s.rngDrawn
    (¬ lenOk → bothFail 0x00000C13) ∧
    (lenOk ∧ rsVerify hardware w = false → bothFail 0x00000123) ∧
    (good ∧ gcField w < gtField w → bothFail 0x00000313) ∧
    (good ∧ gtField w ≤ gcField w ∧ paddingSet w = true → bothFail 0x00000233) ∧
    (good ∧ gtField w ≤ gcField w ∧ paddingSet w = false →
      (∃ t, exec .shdec s = .next t ∧ five t ∧ t.gt.toNat = gtField w ∧ t.gc.toNat = gcField w ∧
        t.len.toNat = valueLength (s.wlen.toNat - 7) ∧ t.value.length = t.len.toNat ∧
        be t.value = wordsBe ((w.take (w.length - 3)).drop 4) ∧ SameBut (mayWrite .shdec s) s t) ∧
      (∃ t, exec .check1 s = .next t ∧ five t ∧ SameBut (mayWrite .check1 s) s t))

/-! ## Orchestrator (46_orchestrator.md) -/

/-- R252, R254: the four checks of `GENERATE` in their order; nothing but `STATUS` changes when one fails. `PASS_MAX` =
128 is log 9. -/
def Obligations.GenerateValidatesInOrder : Prop :=
  ∀ s : State,
    let grp : Prop := 1 ≤ s.gt.toNat ∧ s.gt.toNat ≤ s.gc.toNat ∧ s.gc.toNat ≤ 16
    let lenOk : Prop := 16 ≤ s.len.toNat ∧ s.len.toNat ≤ 32 ∧ s.len.toNat % 2 = 0
    let mem : Prop := ∀ g : Fin 16, g.val < s.gc.toNat →
      1 ≤ s.grpthr[g].toNat ∧ s.grpthr[g].toNat ≤ s.grpcnt[g].toNat ∧ s.grpcnt[g].toNat ≤ 16
    (¬ grp → exec .generate s = .next { s with status := 0x00000313 }) ∧
    (grp ∧ ¬ lenOk → exec .generate s = .next { s with status := 0x00000A13 }) ∧
    (grp ∧ lenOk ∧ ¬ mem → exec .generate s = .next { s with status := 0x00000B13 }) ∧
    (grp ∧ lenOk ∧ mem ∧ 128 < s.plen.toNat → exec .generate s = .next { s with status := 0x00000C13 })

/-- R254: a valid `GENERATE` completes; `NSH` is the sum of the counts; mnemonic number
`GRPCNT[0] + ... + GRPCNT[g-1] + m` is that of member `m` of group `g`, with the share of the group's share of the
encrypted secret as its value (R251, R253); `MN` and `MNLEN` beyond them, and everything else, stay. The random bytes
stand at the counter, log 3; the two-level split is R251's (C2). -/
def Obligations.GenerateWritesEveryMember : Prop :=
  ∀ s : State, 1 ≤ s.gt.toNat → s.gt.toNat ≤ s.gc.toNat → s.gc.toNat ≤ 16 →
    16 ≤ s.len.toNat → s.len.toNat ≤ 32 → s.len.toNat % 2 = 0 → s.plen.toNat ≤ 128 →
    (∀ g : Fin 16, g.val < s.gc.toNat →
      1 ≤ s.grpthr[g].toNat ∧ s.grpthr[g].toNat ≤ s.grpcnt[g].toNat ∧ s.grpcnt[g].toNat ≤ 16) →
      let n := s.len.toNat
      let count := fun g : Nat => if h : g < 16 then s.grpcnt[g].toNat else 0
      let thr := fun g : Nat => if h : g < 16 then s.grpthr[g].toNat else 0
      let ems := fourRounds hardware s 0 1 2 3
      let gsh := shamirSplit hardware s.rngDrawn s.gc.toNat s.gt.toNat ems
      let drawnAt := fun g : Nat =>
        s.rngDrawn + splitDraws s.gt.toNat n + ((List.range g).map (fun j => splitDraws (thr j) n)).sum
      ∃ t, exec .generate s = .next t ∧ t.status = 0x00000001 ∧
        t.nsh.toNat = ((List.range s.gc.toNat).map count).sum ∧ t.rngDrawn = drawnAt s.gc.toNat ∧
        SameBut (mayWrite .generate s) s t ∧
        ∀ (g m : Nat) (row : Fin 256), g < s.gc.toNat → m < count g →
          row.val = ((List.range g).map count).sum + m →
          holdsMnemonic t row (shareEncode hardware
            { id := s.id, ie := s.ie, gi := BitVec.ofNat 4 g, gt := s.gt, gc := s.gc, mi := BitVec.ofNat 4 m,
              mt := s.grpthr[g]?.getD 0,
              value := (shamirSplit hardware (drawnAt g) (count g) (thr g) (gsh.getD g [])).getD m [] })

/-- R270: the checks `RECOVER` makes before it decodes any share, in order: `NSH` above 256, `PLEN` above `PASS_MAX`
(128 is log 9), `NSH` = 0. Then R261, R268: the first row that does not decode, whatever its index and whatever the rows
after it and the consistency of those before it, fails the recovery with its error: the word count, the checksum, the
group threshold or the padding. Rests on the default generator table, log 7. -/
def Obligations.RecoverChecksItsOperands : Prop :=
  ∀ s : State,
    (256 < s.nsh.toNat → exec .recover s = .next { s with status := 0x00000C13 }) ∧
    (s.nsh.toNat ≤ 256 ∧ 128 < s.plen.toNat → exec .recover s = .next { s with status := 0x00000C13 }) ∧
    (s.nsh = 0 ∧ s.plen.toNat ≤ 128 → exec .recover s = .next { s with status := 0x00000663 }) ∧
    (s.nsh.toNat ≤ 256 ∧ s.plen.toNat ≤ 128 →
      ∀ (m : Fin 256) (e : CmdError), m.val < s.nsh.toNat → (∀ j : Fin 256, j < m → rowError hardware s j = none) →
        rowError hardware s m = some e → exec .recover s = .next { s with status := statusError e })

/-- `RECOVER` of any list of true shares that belong together (R265 to R267, R270): fewer groups than the group threshold
fail with `InsufficientShares`; fewer groups that reach their member threshold, with `NotEnoughMemberShards`; a digest that
does not agree, of one of the first `gt` such groups or of the group level, with `DigestMismatch`; else the recovery
completes with the decryption of what the first `gt` of them give, `LEN` the values' length, and nothing else but `STATUS`
touched. One share is the list of length 1. Rests on the default tables, logs 5 and 7; `PASS_MAX` = 128 is log 9. -/
def Obligations.RecoverOfTrueShares : Prop :=
  ∀ (s : State) (h0 : Share) (hs : List Share), s.plen.toNat ≤ 128 → holdsShares s (h0 :: hs) →
    (∀ h ∈ hs, sameFour h h0) → 16 ≤ h0.value.length → h0.value.length ≤ 32 → h0.value.length % 2 = 0 →
    (h0 :: hs).Pairwise compatible →
      let gt := h0.gt.toNat
      let n := h0.value.length
      if (groupOrder (h0 :: hs)).length < gt then exec .recover s = .next { s with status := 0x00000663 }
      else if (fullGroups (h0 :: hs)).length < gt then exec .recover s = .next { s with status := 0x00000563 }
      else match combineGroups hardware (h0 :: hs) gt n with
        | none => exec .recover s = .next { s with status := 0x00000753 }
        | some ems => exec .recover s = .next { s with
            val := overwrite s.val (feistelDecrypt hardware ems h0.id h0.ie s.passphrase),
            len := BitVec.ofNat 6 n, status := 0x00000001 }

/-- `RECOVER` of any list of true shares that do not belong together (R262 to R264): one that differs from the first in
identifier, exponent, group threshold or length fails with `InconsistentShareSet`; then a common length that is odd or not
16 to 32, with `InvalidSecretLength`; then the first share that does not fit the ones before it, with
`MemberThresholdMismatch` or, the thresholds being equal, `DuplicateMemberIndex`. Rests on the default generator table,
log 7; `PASS_MAX` = 128 is log 9. -/
def Obligations.RecoverRejectsMixedShares : Prop :=
  ∀ (s : State) (h0 : Share) (hs : List Share), s.plen.toNat ≤ 128 → holdsShares s (h0 :: hs) →
    let n := h0.value.length
    let same : Prop := ∀ h ∈ hs, sameFour h h0
    let lenOk : Prop := 16 ≤ n ∧ n ≤ 32 ∧ n % 2 = 0
    (¬ same → exec .recover s = .next { s with status := 0x00000843 }) ∧
    (same ∧ ¬ lenOk → exec .recover s = .next { s with status := 0x00000A13 }) ∧
    (same ∧ lenOk → ∀ (before after : List Share) (h : Share), h0 :: hs = before ++ h :: after →
      before.Pairwise compatible → ∀ a ∈ before, a.gi = h.gi →
        (a.mt ≠ h.mt → exec .recover s = .next { s with status := 0x00000943 }) ∧
        (a.mt = h.mt ∧ a.mi = h.mi → exec .recover s = .next { s with status := 0x00000443 }))

/-- R218, R267: a wrong passphrase is no error: where `RECOVER` succeeds with one passphrase it succeeds with every
other, with the same `LEN`. -/
def Obligations.RecoverAcceptsEveryPassphrase : Prop :=
  ∀ (s t : State) (pass : Vector Byte passWindow) (plen : BitVec 8), exec .recover s = .next t → t.status = 0x00000001 →
    plen.toNat ≤ 128 →
      ∃ u, exec .recover { s with pass := pass, plen := plen } = .next u ∧ u.status = 0x00000001 ∧ u.len = t.len

/-- The full pipeline (R256(a), R265, R266): a valid `GENERATE`, for every legal choice of groups and every length that
is not a multiple of 5, completes; and from every state whose `MN` holds, in any order, different mnemonics of it of which
at least `gt` groups reach their member threshold, with the passphrase of the generation, `RECOVER` completes and leaves
the master secret in `VAL`, whatever the three ports answer. Rests on the default tables, logs 5 and 7. -/
def Obligations.GenerateThenRecoverRestores : Prop :=
  ∀ s : State, 1 ≤ s.gt.toNat → s.gt.toNat ≤ s.gc.toNat → s.gc.toNat ≤ 16 → soundLength s.len.toNat →
    s.plen.toNat ≤ 128 →
    (∀ g : Fin 16, g.val < s.gc.toNat →
      1 ≤ s.grpthr[g].toNat ∧ s.grpthr[g].toNat ≤ s.grpcnt[g].toNat ∧ s.grpcnt[g].toNat ≤ 16) →
      let count := fun g : Nat => if h : g < 16 then s.grpcnt[g].toNat else 0
      let thr := fun g : Nat => if h : g < 16 then s.grpthr[g].toNat else 0
      let start := fun g : Nat => ((List.range g).map count).sum
      ∃ t, exec .generate s = .next t ∧ t.status = 0x00000001 ∧
        ∀ (rows : List (Fin 256)) (r : State), rows.Nodup → (∀ m ∈ rows, m.val < t.nsh.toNat) →
          s.gt.toNat ≤ ((List.range s.gc.toNat).filter (fun g =>
            decide (thr g ≤ (rows.filter (fun m => decide (start g ≤ m.val ∧ m.val < start g + count g))).length))).length →
          r.nsh.toNat = rows.length →
          (∀ (k : Fin 256) (m : Fin 256), rows[k.val]? = some m → r.mn[k] = t.mn[m] ∧ r.mnlen[k] = t.mnlen[m]) →
          r.pass = s.pass → r.plen = s.plen →
            ∃ u, exec .recover r = .next u ∧ u.status = 0x00000001 ∧ u.len = s.len ∧ u.value = s.value ∧
              SameBut (mayWrite .recover r) r u ∧ u.rngDrawn = r.rngDrawn

/-- R351: a backup of a 20- or 30-byte secret is unusable: `GENERATE` succeeds, and from every state whose `MN` holds any
non-empty choice of the mnemonics it wrote, in any order, repeated or not, `RECOVER` fails with `InvalidPadding` or
`InvalidSecretLength`, whatever the passphrase is and the ports answer. Rests on the default generator table, log 7, and
the heuristic of log 13; `PASS_MAX` = 128 is log 9. -/
def Obligations.LengthTwentyAndThirtyFail : Prop :=
  ∀ s : State, 1 ≤ s.gt.toNat → s.gt.toNat ≤ s.gc.toNat → s.gc.toNat ≤ 16 → s.len = 20 ∨ s.len = 30 →
    s.plen.toNat ≤ 128 →
    (∀ g : Fin 16, g.val < s.gc.toNat →
      1 ≤ s.grpthr[g].toNat ∧ s.grpthr[g].toNat ≤ s.grpcnt[g].toNat ∧ s.grpcnt[g].toNat ≤ 16) →
      ∃ t, exec .generate s = .next t ∧ t.status = 0x00000001 ∧
        ∀ (rows : List (Fin 256)) (r : State), rows ≠ [] → rows.length ≤ 256 → (∀ m ∈ rows, m.val < t.nsh.toNat) →
          r.nsh.toNat = rows.length →
          (∀ (k : Fin 256) (m : Fin 256), rows[k.val]? = some m → r.mn[k] = t.mn[m] ∧ r.mnlen[k] = t.mnlen[m]) →
          r.plen.toNat ≤ 128 →
            exec .recover r = .next { r with status := 0x00000233 } ∨
              exec .recover r = .next { r with status := 0x00000A13 }
end

