-- ==== Sys2Proof/Laws/State.lean ====
section
/-! SUPPORT. One lemma per field per update of the state, true by `rfl`, so that no proof unfolds a record update. -/

namespace Sys2Proof.Machine

variable (s : State)

/-! ## `succeed` -/

@[simp] theorem State.succeed_status : (s.succeed).status = statusOk := rfl
@[simp] theorem State.succeed_res : (s.succeed).res = s.res := rfl
@[simp] theorem State.succeed_id : (s.succeed).id = s.id := rfl
@[simp] theorem State.succeed_ie : (s.succeed).ie = s.ie := rfl
@[simp] theorem State.succeed_gi : (s.succeed).gi = s.gi := rfl
@[simp] theorem State.succeed_gt : (s.succeed).gt = s.gt := rfl
@[simp] theorem State.succeed_gc : (s.succeed).gc = s.gc := rfl
@[simp] theorem State.succeed_mi : (s.succeed).mi = s.mi := rfl
@[simp] theorem State.succeed_mt : (s.succeed).mt = s.mt := rfl
@[simp] theorem State.succeed_len : (s.succeed).len = s.len := rfl
@[simp] theorem State.succeed_wlen : (s.succeed).wlen = s.wlen := rfl
@[simp] theorem State.succeed_plen : (s.succeed).plen = s.plen := rfl
@[simp] theorem State.succeed_nsh : (s.succeed).nsh = s.nsh := rfl
@[simp] theorem State.succeed_xs : (s.succeed).xs = s.xs := rfl
@[simp] theorem State.succeed_ys : (s.succeed).ys = s.ys := rfl
@[simp] theorem State.succeed_val : (s.succeed).val = s.val := rfl
@[simp] theorem State.succeed_w : (s.succeed).w = s.w := rfl
@[simp] theorem State.succeed_pass : (s.succeed).pass = s.pass := rfl
@[simp] theorem State.succeed_grpcnt : (s.succeed).grpcnt = s.grpcnt := rfl
@[simp] theorem State.succeed_grpthr : (s.succeed).grpthr = s.grpthr := rfl
@[simp] theorem State.succeed_mn : (s.succeed).mn = s.mn := rfl
@[simp] theorem State.succeed_mnlen : (s.succeed).mnlen = s.mnlen := rfl
@[simp] theorem State.succeed_rngDrawn : (s.succeed).rngDrawn = s.rngDrawn := rfl
@[simp] theorem State.succeed_script : (s.succeed).script = s.script := rfl
@[simp] theorem State.succeed_replies : (s.succeed).replies = s.replies := rfl

/-! ## `fail` -/

@[simp] theorem State.fail_status (e : CmdError) : (s.fail e).status = statusError e := rfl
@[simp] theorem State.fail_res (e : CmdError) : (s.fail e).res = s.res := rfl
@[simp] theorem State.fail_id (e : CmdError) : (s.fail e).id = s.id := rfl
@[simp] theorem State.fail_ie (e : CmdError) : (s.fail e).ie = s.ie := rfl
@[simp] theorem State.fail_gi (e : CmdError) : (s.fail e).gi = s.gi := rfl
@[simp] theorem State.fail_gt (e : CmdError) : (s.fail e).gt = s.gt := rfl
@[simp] theorem State.fail_gc (e : CmdError) : (s.fail e).gc = s.gc := rfl
@[simp] theorem State.fail_mi (e : CmdError) : (s.fail e).mi = s.mi := rfl
@[simp] theorem State.fail_mt (e : CmdError) : (s.fail e).mt = s.mt := rfl
@[simp] theorem State.fail_len (e : CmdError) : (s.fail e).len = s.len := rfl
@[simp] theorem State.fail_wlen (e : CmdError) : (s.fail e).wlen = s.wlen := rfl
@[simp] theorem State.fail_plen (e : CmdError) : (s.fail e).plen = s.plen := rfl
@[simp] theorem State.fail_nsh (e : CmdError) : (s.fail e).nsh = s.nsh := rfl
@[simp] theorem State.fail_xs (e : CmdError) : (s.fail e).xs = s.xs := rfl
@[simp] theorem State.fail_ys (e : CmdError) : (s.fail e).ys = s.ys := rfl
@[simp] theorem State.fail_val (e : CmdError) : (s.fail e).val = s.val := rfl
@[simp] theorem State.fail_w (e : CmdError) : (s.fail e).w = s.w := rfl
@[simp] theorem State.fail_pass (e : CmdError) : (s.fail e).pass = s.pass := rfl
@[simp] theorem State.fail_grpcnt (e : CmdError) : (s.fail e).grpcnt = s.grpcnt := rfl
@[simp] theorem State.fail_grpthr (e : CmdError) : (s.fail e).grpthr = s.grpthr := rfl
@[simp] theorem State.fail_mn (e : CmdError) : (s.fail e).mn = s.mn := rfl
@[simp] theorem State.fail_mnlen (e : CmdError) : (s.fail e).mnlen = s.mnlen := rfl
@[simp] theorem State.fail_rngDrawn (e : CmdError) : (s.fail e).rngDrawn = s.rngDrawn := rfl
@[simp] theorem State.fail_script (e : CmdError) : (s.fail e).script = s.script := rfl
@[simp] theorem State.fail_replies (e : CmdError) : (s.fail e).replies = s.replies := rfl

/-! ## `putRes` -/

@[simp] theorem State.putRes_status (v : BitVec 32) : (s.putRes v).status = s.status := rfl
@[simp] theorem State.putRes_res (v : BitVec 32) : (s.putRes v).res = v := rfl
@[simp] theorem State.putRes_id (v : BitVec 32) : (s.putRes v).id = s.id := rfl
@[simp] theorem State.putRes_ie (v : BitVec 32) : (s.putRes v).ie = s.ie := rfl
@[simp] theorem State.putRes_gi (v : BitVec 32) : (s.putRes v).gi = s.gi := rfl
@[simp] theorem State.putRes_gt (v : BitVec 32) : (s.putRes v).gt = s.gt := rfl
@[simp] theorem State.putRes_gc (v : BitVec 32) : (s.putRes v).gc = s.gc := rfl
@[simp] theorem State.putRes_mi (v : BitVec 32) : (s.putRes v).mi = s.mi := rfl
@[simp] theorem State.putRes_mt (v : BitVec 32) : (s.putRes v).mt = s.mt := rfl
@[simp] theorem State.putRes_len (v : BitVec 32) : (s.putRes v).len = s.len := rfl
@[simp] theorem State.putRes_wlen (v : BitVec 32) : (s.putRes v).wlen = s.wlen := rfl
@[simp] theorem State.putRes_plen (v : BitVec 32) : (s.putRes v).plen = s.plen := rfl
@[simp] theorem State.putRes_nsh (v : BitVec 32) : (s.putRes v).nsh = s.nsh := rfl
@[simp] theorem State.putRes_xs (v : BitVec 32) : (s.putRes v).xs = s.xs := rfl
@[simp] theorem State.putRes_ys (v : BitVec 32) : (s.putRes v).ys = s.ys := rfl
@[simp] theorem State.putRes_val (v : BitVec 32) : (s.putRes v).val = s.val := rfl
@[simp] theorem State.putRes_w (v : BitVec 32) : (s.putRes v).w = s.w := rfl
@[simp] theorem State.putRes_pass (v : BitVec 32) : (s.putRes v).pass = s.pass := rfl
@[simp] theorem State.putRes_grpcnt (v : BitVec 32) : (s.putRes v).grpcnt = s.grpcnt := rfl
@[simp] theorem State.putRes_grpthr (v : BitVec 32) : (s.putRes v).grpthr = s.grpthr := rfl
@[simp] theorem State.putRes_mn (v : BitVec 32) : (s.putRes v).mn = s.mn := rfl
@[simp] theorem State.putRes_mnlen (v : BitVec 32) : (s.putRes v).mnlen = s.mnlen := rfl
@[simp] theorem State.putRes_rngDrawn (v : BitVec 32) : (s.putRes v).rngDrawn = s.rngDrawn := rfl
@[simp] theorem State.putRes_script (v : BitVec 32) : (s.putRes v).script = s.script := rfl
@[simp] theorem State.putRes_replies (v : BitVec 32) : (s.putRes v).replies = s.replies := rfl

/-! ## `putVal` -/

@[simp] theorem State.putVal_status (b : List Byte) : (s.putVal b).status = s.status := rfl
@[simp] theorem State.putVal_res (b : List Byte) : (s.putVal b).res = s.res := rfl
@[simp] theorem State.putVal_id (b : List Byte) : (s.putVal b).id = s.id := rfl
@[simp] theorem State.putVal_ie (b : List Byte) : (s.putVal b).ie = s.ie := rfl
@[simp] theorem State.putVal_gi (b : List Byte) : (s.putVal b).gi = s.gi := rfl
@[simp] theorem State.putVal_gt (b : List Byte) : (s.putVal b).gt = s.gt := rfl
@[simp] theorem State.putVal_gc (b : List Byte) : (s.putVal b).gc = s.gc := rfl
@[simp] theorem State.putVal_mi (b : List Byte) : (s.putVal b).mi = s.mi := rfl
@[simp] theorem State.putVal_mt (b : List Byte) : (s.putVal b).mt = s.mt := rfl
@[simp] theorem State.putVal_len (b : List Byte) : (s.putVal b).len = s.len := rfl
@[simp] theorem State.putVal_wlen (b : List Byte) : (s.putVal b).wlen = s.wlen := rfl
@[simp] theorem State.putVal_plen (b : List Byte) : (s.putVal b).plen = s.plen := rfl
@[simp] theorem State.putVal_nsh (b : List Byte) : (s.putVal b).nsh = s.nsh := rfl
@[simp] theorem State.putVal_xs (b : List Byte) : (s.putVal b).xs = s.xs := rfl
@[simp] theorem State.putVal_ys (b : List Byte) : (s.putVal b).ys = s.ys := rfl
@[simp] theorem State.putVal_val (b : List Byte) : (s.putVal b).val = overwrite s.val b := rfl
@[simp] theorem State.putVal_w (b : List Byte) : (s.putVal b).w = s.w := rfl
@[simp] theorem State.putVal_pass (b : List Byte) : (s.putVal b).pass = s.pass := rfl
@[simp] theorem State.putVal_grpcnt (b : List Byte) : (s.putVal b).grpcnt = s.grpcnt := rfl
@[simp] theorem State.putVal_grpthr (b : List Byte) : (s.putVal b).grpthr = s.grpthr := rfl
@[simp] theorem State.putVal_mn (b : List Byte) : (s.putVal b).mn = s.mn := rfl
@[simp] theorem State.putVal_mnlen (b : List Byte) : (s.putVal b).mnlen = s.mnlen := rfl
@[simp] theorem State.putVal_rngDrawn (b : List Byte) : (s.putVal b).rngDrawn = s.rngDrawn := rfl
@[simp] theorem State.putVal_script (b : List Byte) : (s.putVal b).script = s.script := rfl
@[simp] theorem State.putVal_replies (b : List Byte) : (s.putVal b).replies = s.replies := rfl

/-! ## `putValue` -/

@[simp] theorem State.putValue_status (b : List Byte) : (s.putValue b).status = s.status := rfl
@[simp] theorem State.putValue_res (b : List Byte) : (s.putValue b).res = s.res := rfl
@[simp] theorem State.putValue_id (b : List Byte) : (s.putValue b).id = s.id := rfl
@[simp] theorem State.putValue_ie (b : List Byte) : (s.putValue b).ie = s.ie := rfl
@[simp] theorem State.putValue_gi (b : List Byte) : (s.putValue b).gi = s.gi := rfl
@[simp] theorem State.putValue_gt (b : List Byte) : (s.putValue b).gt = s.gt := rfl
@[simp] theorem State.putValue_gc (b : List Byte) : (s.putValue b).gc = s.gc := rfl
@[simp] theorem State.putValue_mi (b : List Byte) : (s.putValue b).mi = s.mi := rfl
@[simp] theorem State.putValue_mt (b : List Byte) : (s.putValue b).mt = s.mt := rfl
@[simp] theorem State.putValue_len (b : List Byte) : (s.putValue b).len = BitVec.ofNat 6 b.length := rfl
@[simp] theorem State.putValue_wlen (b : List Byte) : (s.putValue b).wlen = s.wlen := rfl
@[simp] theorem State.putValue_plen (b : List Byte) : (s.putValue b).plen = s.plen := rfl
@[simp] theorem State.putValue_nsh (b : List Byte) : (s.putValue b).nsh = s.nsh := rfl
@[simp] theorem State.putValue_xs (b : List Byte) : (s.putValue b).xs = s.xs := rfl
@[simp] theorem State.putValue_ys (b : List Byte) : (s.putValue b).ys = s.ys := rfl
@[simp] theorem State.putValue_val (b : List Byte) : (s.putValue b).val = overwrite s.val b := rfl
@[simp] theorem State.putValue_w (b : List Byte) : (s.putValue b).w = s.w := rfl
@[simp] theorem State.putValue_pass (b : List Byte) : (s.putValue b).pass = s.pass := rfl
@[simp] theorem State.putValue_grpcnt (b : List Byte) : (s.putValue b).grpcnt = s.grpcnt := rfl
@[simp] theorem State.putValue_grpthr (b : List Byte) : (s.putValue b).grpthr = s.grpthr := rfl
@[simp] theorem State.putValue_mn (b : List Byte) : (s.putValue b).mn = s.mn := rfl
@[simp] theorem State.putValue_mnlen (b : List Byte) : (s.putValue b).mnlen = s.mnlen := rfl
@[simp] theorem State.putValue_rngDrawn (b : List Byte) : (s.putValue b).rngDrawn = s.rngDrawn := rfl
@[simp] theorem State.putValue_script (b : List Byte) : (s.putValue b).script = s.script := rfl
@[simp] theorem State.putValue_replies (b : List Byte) : (s.putValue b).replies = s.replies := rfl

/-! ## `putW` -/

@[simp] theorem State.putW_status (ws : List Word) : (s.putW ws).status = s.status := rfl
@[simp] theorem State.putW_res (ws : List Word) : (s.putW ws).res = s.res := rfl
@[simp] theorem State.putW_id (ws : List Word) : (s.putW ws).id = s.id := rfl
@[simp] theorem State.putW_ie (ws : List Word) : (s.putW ws).ie = s.ie := rfl
@[simp] theorem State.putW_gi (ws : List Word) : (s.putW ws).gi = s.gi := rfl
@[simp] theorem State.putW_gt (ws : List Word) : (s.putW ws).gt = s.gt := rfl
@[simp] theorem State.putW_gc (ws : List Word) : (s.putW ws).gc = s.gc := rfl
@[simp] theorem State.putW_mi (ws : List Word) : (s.putW ws).mi = s.mi := rfl
@[simp] theorem State.putW_mt (ws : List Word) : (s.putW ws).mt = s.mt := rfl
@[simp] theorem State.putW_len (ws : List Word) : (s.putW ws).len = s.len := rfl
@[simp] theorem State.putW_wlen (ws : List Word) : (s.putW ws).wlen = s.wlen := rfl
@[simp] theorem State.putW_plen (ws : List Word) : (s.putW ws).plen = s.plen := rfl
@[simp] theorem State.putW_nsh (ws : List Word) : (s.putW ws).nsh = s.nsh := rfl
@[simp] theorem State.putW_xs (ws : List Word) : (s.putW ws).xs = s.xs := rfl
@[simp] theorem State.putW_ys (ws : List Word) : (s.putW ws).ys = s.ys := rfl
@[simp] theorem State.putW_val (ws : List Word) : (s.putW ws).val = s.val := rfl
@[simp] theorem State.putW_w (ws : List Word) : (s.putW ws).w = overwrite s.w ws := rfl
@[simp] theorem State.putW_pass (ws : List Word) : (s.putW ws).pass = s.pass := rfl
@[simp] theorem State.putW_grpcnt (ws : List Word) : (s.putW ws).grpcnt = s.grpcnt := rfl
@[simp] theorem State.putW_grpthr (ws : List Word) : (s.putW ws).grpthr = s.grpthr := rfl
@[simp] theorem State.putW_mn (ws : List Word) : (s.putW ws).mn = s.mn := rfl
@[simp] theorem State.putW_mnlen (ws : List Word) : (s.putW ws).mnlen = s.mnlen := rfl
@[simp] theorem State.putW_rngDrawn (ws : List Word) : (s.putW ws).rngDrawn = s.rngDrawn := rfl
@[simp] theorem State.putW_script (ws : List Word) : (s.putW ws).script = s.script := rfl
@[simp] theorem State.putW_replies (ws : List Word) : (s.putW ws).replies = s.replies := rfl

/-! ## `putWords` -/

@[simp] theorem State.putWords_status (ws : List Word) : (s.putWords ws).status = s.status := rfl
@[simp] theorem State.putWords_res (ws : List Word) : (s.putWords ws).res = s.res := rfl
@[simp] theorem State.putWords_id (ws : List Word) : (s.putWords ws).id = s.id := rfl
@[simp] theorem State.putWords_ie (ws : List Word) : (s.putWords ws).ie = s.ie := rfl
@[simp] theorem State.putWords_gi (ws : List Word) : (s.putWords ws).gi = s.gi := rfl
@[simp] theorem State.putWords_gt (ws : List Word) : (s.putWords ws).gt = s.gt := rfl
@[simp] theorem State.putWords_gc (ws : List Word) : (s.putWords ws).gc = s.gc := rfl
@[simp] theorem State.putWords_mi (ws : List Word) : (s.putWords ws).mi = s.mi := rfl
@[simp] theorem State.putWords_mt (ws : List Word) : (s.putWords ws).mt = s.mt := rfl
@[simp] theorem State.putWords_len (ws : List Word) : (s.putWords ws).len = s.len := rfl
@[simp] theorem State.putWords_wlen (ws : List Word) : (s.putWords ws).wlen = BitVec.ofNat 6 ws.length := rfl
@[simp] theorem State.putWords_plen (ws : List Word) : (s.putWords ws).plen = s.plen := rfl
@[simp] theorem State.putWords_nsh (ws : List Word) : (s.putWords ws).nsh = s.nsh := rfl
@[simp] theorem State.putWords_xs (ws : List Word) : (s.putWords ws).xs = s.xs := rfl
@[simp] theorem State.putWords_ys (ws : List Word) : (s.putWords ws).ys = s.ys := rfl
@[simp] theorem State.putWords_val (ws : List Word) : (s.putWords ws).val = s.val := rfl
@[simp] theorem State.putWords_w (ws : List Word) : (s.putWords ws).w = overwrite s.w ws := rfl
@[simp] theorem State.putWords_pass (ws : List Word) : (s.putWords ws).pass = s.pass := rfl
@[simp] theorem State.putWords_grpcnt (ws : List Word) : (s.putWords ws).grpcnt = s.grpcnt := rfl
@[simp] theorem State.putWords_grpthr (ws : List Word) : (s.putWords ws).grpthr = s.grpthr := rfl
@[simp] theorem State.putWords_mn (ws : List Word) : (s.putWords ws).mn = s.mn := rfl
@[simp] theorem State.putWords_mnlen (ws : List Word) : (s.putWords ws).mnlen = s.mnlen := rfl
@[simp] theorem State.putWords_rngDrawn (ws : List Word) : (s.putWords ws).rngDrawn = s.rngDrawn := rfl
@[simp] theorem State.putWords_script (ws : List Word) : (s.putWords ws).script = s.script := rfl
@[simp] theorem State.putWords_replies (ws : List Word) : (s.putWords ws).replies = s.replies := rfl

/-! ## `putShare` -/

@[simp] theorem State.putShare_status (h : Share) : (s.putShare h).status = s.status := rfl
@[simp] theorem State.putShare_res (h : Share) : (s.putShare h).res = s.res := rfl
@[simp] theorem State.putShare_id (h : Share) : (s.putShare h).id = h.id := rfl
@[simp] theorem State.putShare_ie (h : Share) : (s.putShare h).ie = h.ie := rfl
@[simp] theorem State.putShare_gi (h : Share) : (s.putShare h).gi = h.gi := rfl
@[simp] theorem State.putShare_gt (h : Share) : (s.putShare h).gt = h.gt := rfl
@[simp] theorem State.putShare_gc (h : Share) : (s.putShare h).gc = h.gc := rfl
@[simp] theorem State.putShare_mi (h : Share) : (s.putShare h).mi = h.mi := rfl
@[simp] theorem State.putShare_mt (h : Share) : (s.putShare h).mt = h.mt := rfl
@[simp] theorem State.putShare_len (h : Share) : (s.putShare h).len = BitVec.ofNat 6 h.value.length := rfl
@[simp] theorem State.putShare_wlen (h : Share) : (s.putShare h).wlen = s.wlen := rfl
@[simp] theorem State.putShare_plen (h : Share) : (s.putShare h).plen = s.plen := rfl
@[simp] theorem State.putShare_nsh (h : Share) : (s.putShare h).nsh = s.nsh := rfl
@[simp] theorem State.putShare_xs (h : Share) : (s.putShare h).xs = s.xs := rfl
@[simp] theorem State.putShare_ys (h : Share) : (s.putShare h).ys = s.ys := rfl
@[simp] theorem State.putShare_val (h : Share) : (s.putShare h).val = overwrite s.val h.value := rfl
@[simp] theorem State.putShare_w (h : Share) : (s.putShare h).w = s.w := rfl
@[simp] theorem State.putShare_pass (h : Share) : (s.putShare h).pass = s.pass := rfl
@[simp] theorem State.putShare_grpcnt (h : Share) : (s.putShare h).grpcnt = s.grpcnt := rfl
@[simp] theorem State.putShare_grpthr (h : Share) : (s.putShare h).grpthr = s.grpthr := rfl
@[simp] theorem State.putShare_mn (h : Share) : (s.putShare h).mn = s.mn := rfl
@[simp] theorem State.putShare_mnlen (h : Share) : (s.putShare h).mnlen = s.mnlen := rfl
@[simp] theorem State.putShare_rngDrawn (h : Share) : (s.putShare h).rngDrawn = s.rngDrawn := rfl
@[simp] theorem State.putShare_script (h : Share) : (s.putShare h).script = s.script := rfl
@[simp] theorem State.putShare_replies (h : Share) : (s.putShare h).replies = s.replies := rfl

/-! ## `putChecked` -/

@[simp] theorem State.putChecked_status (h : Share) : (s.putChecked h).status = s.status := rfl
@[simp] theorem State.putChecked_res (h : Share) : (s.putChecked h).res = s.res := rfl
@[simp] theorem State.putChecked_id (h : Share) : (s.putChecked h).id = h.id := rfl
@[simp] theorem State.putChecked_ie (h : Share) : (s.putChecked h).ie = h.ie := rfl
@[simp] theorem State.putChecked_gi (h : Share) : (s.putChecked h).gi = h.gi := rfl
@[simp] theorem State.putChecked_gt (h : Share) : (s.putChecked h).gt = s.gt := rfl
@[simp] theorem State.putChecked_gc (h : Share) : (s.putChecked h).gc = s.gc := rfl
@[simp] theorem State.putChecked_mi (h : Share) : (s.putChecked h).mi = h.mi := rfl
@[simp] theorem State.putChecked_mt (h : Share) : (s.putChecked h).mt = h.mt := rfl
@[simp] theorem State.putChecked_len (h : Share) : (s.putChecked h).len = s.len := rfl
@[simp] theorem State.putChecked_wlen (h : Share) : (s.putChecked h).wlen = s.wlen := rfl
@[simp] theorem State.putChecked_plen (h : Share) : (s.putChecked h).plen = s.plen := rfl
@[simp] theorem State.putChecked_nsh (h : Share) : (s.putChecked h).nsh = s.nsh := rfl
@[simp] theorem State.putChecked_xs (h : Share) : (s.putChecked h).xs = s.xs := rfl
@[simp] theorem State.putChecked_ys (h : Share) : (s.putChecked h).ys = s.ys := rfl
@[simp] theorem State.putChecked_val (h : Share) : (s.putChecked h).val = s.val := rfl
@[simp] theorem State.putChecked_w (h : Share) : (s.putChecked h).w = s.w := rfl
@[simp] theorem State.putChecked_pass (h : Share) : (s.putChecked h).pass = s.pass := rfl
@[simp] theorem State.putChecked_grpcnt (h : Share) : (s.putChecked h).grpcnt = s.grpcnt := rfl
@[simp] theorem State.putChecked_grpthr (h : Share) : (s.putChecked h).grpthr = s.grpthr := rfl
@[simp] theorem State.putChecked_mn (h : Share) : (s.putChecked h).mn = s.mn := rfl
@[simp] theorem State.putChecked_mnlen (h : Share) : (s.putChecked h).mnlen = s.mnlen := rfl
@[simp] theorem State.putChecked_rngDrawn (h : Share) : (s.putChecked h).rngDrawn = s.rngDrawn := rfl
@[simp] theorem State.putChecked_script (h : Share) : (s.putChecked h).script = s.script := rfl
@[simp] theorem State.putChecked_replies (h : Share) : (s.putChecked h).replies = s.replies := rfl

/-! ## `putPoints` -/

@[simp] theorem State.putPoints_status (sh : List (List Byte)) (d : Nat) : (s.putPoints sh d).status = s.status := rfl
@[simp] theorem State.putPoints_res (sh : List (List Byte)) (d : Nat) : (s.putPoints sh d).res = s.res := rfl
@[simp] theorem State.putPoints_id (sh : List (List Byte)) (d : Nat) : (s.putPoints sh d).id = s.id := rfl
@[simp] theorem State.putPoints_ie (sh : List (List Byte)) (d : Nat) : (s.putPoints sh d).ie = s.ie := rfl
@[simp] theorem State.putPoints_gi (sh : List (List Byte)) (d : Nat) : (s.putPoints sh d).gi = s.gi := rfl
@[simp] theorem State.putPoints_gt (sh : List (List Byte)) (d : Nat) : (s.putPoints sh d).gt = s.gt := rfl
@[simp] theorem State.putPoints_gc (sh : List (List Byte)) (d : Nat) : (s.putPoints sh d).gc = s.gc := rfl
@[simp] theorem State.putPoints_mi (sh : List (List Byte)) (d : Nat) : (s.putPoints sh d).mi = s.mi := rfl
@[simp] theorem State.putPoints_mt (sh : List (List Byte)) (d : Nat) : (s.putPoints sh d).mt = s.mt := rfl
@[simp] theorem State.putPoints_len (sh : List (List Byte)) (d : Nat) : (s.putPoints sh d).len = s.len := rfl
@[simp] theorem State.putPoints_wlen (sh : List (List Byte)) (d : Nat) : (s.putPoints sh d).wlen = s.wlen := rfl
@[simp] theorem State.putPoints_plen (sh : List (List Byte)) (d : Nat) : (s.putPoints sh d).plen = s.plen := rfl
@[simp] theorem State.putPoints_nsh (sh : List (List Byte)) (d : Nat) : (s.putPoints sh d).nsh = s.nsh := rfl
@[simp] theorem State.putPoints_xs (sh : List (List Byte)) (d : Nat) : (s.putPoints sh d).xs = overwrite s.xs ((List.range sh.length).map (BitVec.ofNat 8)) := rfl
@[simp] theorem State.putPoints_ys (sh : List (List Byte)) (d : Nat) : (s.putPoints sh d).ys = overwriteRows s.ys sh := rfl
@[simp] theorem State.putPoints_val (sh : List (List Byte)) (d : Nat) : (s.putPoints sh d).val = s.val := rfl
@[simp] theorem State.putPoints_w (sh : List (List Byte)) (d : Nat) : (s.putPoints sh d).w = s.w := rfl
@[simp] theorem State.putPoints_pass (sh : List (List Byte)) (d : Nat) : (s.putPoints sh d).pass = s.pass := rfl
@[simp] theorem State.putPoints_grpcnt (sh : List (List Byte)) (d : Nat) : (s.putPoints sh d).grpcnt = s.grpcnt := rfl
@[simp] theorem State.putPoints_grpthr (sh : List (List Byte)) (d : Nat) : (s.putPoints sh d).grpthr = s.grpthr := rfl
@[simp] theorem State.putPoints_mn (sh : List (List Byte)) (d : Nat) : (s.putPoints sh d).mn = s.mn := rfl
@[simp] theorem State.putPoints_mnlen (sh : List (List Byte)) (d : Nat) : (s.putPoints sh d).mnlen = s.mnlen := rfl
@[simp] theorem State.putPoints_rngDrawn (sh : List (List Byte)) (d : Nat) : (s.putPoints sh d).rngDrawn = d := rfl
@[simp] theorem State.putPoints_script (sh : List (List Byte)) (d : Nat) : (s.putPoints sh d).script = s.script := rfl
@[simp] theorem State.putPoints_replies (sh : List (List Byte)) (d : Nat) : (s.putPoints sh d).replies = s.replies := rfl

/-! ## `putMnemonics` -/

@[simp] theorem State.putMnemonics_status (o : List (List Word)) (d : Nat) : (s.putMnemonics o d).status = s.status := rfl
@[simp] theorem State.putMnemonics_res (o : List (List Word)) (d : Nat) : (s.putMnemonics o d).res = s.res := rfl
@[simp] theorem State.putMnemonics_id (o : List (List Word)) (d : Nat) : (s.putMnemonics o d).id = s.id := rfl
@[simp] theorem State.putMnemonics_ie (o : List (List Word)) (d : Nat) : (s.putMnemonics o d).ie = s.ie := rfl
@[simp] theorem State.putMnemonics_gi (o : List (List Word)) (d : Nat) : (s.putMnemonics o d).gi = s.gi := rfl
@[simp] theorem State.putMnemonics_gt (o : List (List Word)) (d : Nat) : (s.putMnemonics o d).gt = s.gt := rfl
@[simp] theorem State.putMnemonics_gc (o : List (List Word)) (d : Nat) : (s.putMnemonics o d).gc = s.gc := rfl
@[simp] theorem State.putMnemonics_mi (o : List (List Word)) (d : Nat) : (s.putMnemonics o d).mi = s.mi := rfl
@[simp] theorem State.putMnemonics_mt (o : List (List Word)) (d : Nat) : (s.putMnemonics o d).mt = s.mt := rfl
@[simp] theorem State.putMnemonics_len (o : List (List Word)) (d : Nat) : (s.putMnemonics o d).len = s.len := rfl
@[simp] theorem State.putMnemonics_wlen (o : List (List Word)) (d : Nat) : (s.putMnemonics o d).wlen = s.wlen := rfl
@[simp] theorem State.putMnemonics_plen (o : List (List Word)) (d : Nat) : (s.putMnemonics o d).plen = s.plen := rfl
@[simp] theorem State.putMnemonics_nsh (o : List (List Word)) (d : Nat) : (s.putMnemonics o d).nsh = BitVec.ofNat 9 o.length := rfl
@[simp] theorem State.putMnemonics_xs (o : List (List Word)) (d : Nat) : (s.putMnemonics o d).xs = s.xs := rfl
@[simp] theorem State.putMnemonics_ys (o : List (List Word)) (d : Nat) : (s.putMnemonics o d).ys = s.ys := rfl
@[simp] theorem State.putMnemonics_val (o : List (List Word)) (d : Nat) : (s.putMnemonics o d).val = s.val := rfl
@[simp] theorem State.putMnemonics_w (o : List (List Word)) (d : Nat) : (s.putMnemonics o d).w = s.w := rfl
@[simp] theorem State.putMnemonics_pass (o : List (List Word)) (d : Nat) : (s.putMnemonics o d).pass = s.pass := rfl
@[simp] theorem State.putMnemonics_grpcnt (o : List (List Word)) (d : Nat) : (s.putMnemonics o d).grpcnt = s.grpcnt := rfl
@[simp] theorem State.putMnemonics_grpthr (o : List (List Word)) (d : Nat) : (s.putMnemonics o d).grpthr = s.grpthr := rfl
@[simp] theorem State.putMnemonics_mn (o : List (List Word)) (d : Nat) : (s.putMnemonics o d).mn = overwriteRows s.mn o := rfl
@[simp] theorem State.putMnemonics_mnlen (o : List (List Word)) (d : Nat) : (s.putMnemonics o d).mnlen = overwrite s.mnlen (o.map (fun ws => BitVec.ofNat 6 ws.length)) := rfl
@[simp] theorem State.putMnemonics_rngDrawn (o : List (List Word)) (d : Nat) : (s.putMnemonics o d).rngDrawn = d := rfl
@[simp] theorem State.putMnemonics_script (o : List (List Word)) (d : Nat) : (s.putMnemonics o d).script = s.script := rfl
@[simp] theorem State.putMnemonics_replies (o : List (List Word)) (d : Nat) : (s.putMnemonics o d).replies = s.replies := rfl

/-! ## `clear` -/

@[simp] theorem State.clear_status : (s.clear).status = s.status := rfl
@[simp] theorem State.clear_res : (s.clear).res = 0 := rfl
@[simp] theorem State.clear_id : (s.clear).id = 0 := rfl
@[simp] theorem State.clear_ie : (s.clear).ie = 0 := rfl
@[simp] theorem State.clear_gi : (s.clear).gi = 0 := rfl
@[simp] theorem State.clear_gt : (s.clear).gt = 0 := rfl
@[simp] theorem State.clear_gc : (s.clear).gc = 0 := rfl
@[simp] theorem State.clear_mi : (s.clear).mi = 0 := rfl
@[simp] theorem State.clear_mt : (s.clear).mt = 0 := rfl
@[simp] theorem State.clear_len : (s.clear).len = 0 := rfl
@[simp] theorem State.clear_wlen : (s.clear).wlen = 0 := rfl
@[simp] theorem State.clear_plen : (s.clear).plen = 0 := rfl
@[simp] theorem State.clear_nsh : (s.clear).nsh = 0 := rfl
@[simp] theorem State.clear_xs : (s.clear).xs = Vector.replicate 16 0 := rfl
@[simp] theorem State.clear_ys : (s.clear).ys = Vector.replicate 16 (Vector.replicate 32 0) := rfl
@[simp] theorem State.clear_val : (s.clear).val = Vector.replicate 32 0 := rfl
@[simp] theorem State.clear_w : (s.clear).w = Vector.replicate 33 0 := rfl
@[simp] theorem State.clear_pass : (s.clear).pass = Vector.replicate passWindow 0 := rfl
@[simp] theorem State.clear_grpcnt : (s.clear).grpcnt = Vector.replicate 16 0 := rfl
@[simp] theorem State.clear_grpthr : (s.clear).grpthr = Vector.replicate 16 0 := rfl
@[simp] theorem State.clear_mn : (s.clear).mn = Vector.replicate 256 (Vector.replicate 33 0) := rfl
@[simp] theorem State.clear_mnlen : (s.clear).mnlen = Vector.replicate 256 0 := rfl
@[simp] theorem State.clear_rngDrawn : (s.clear).rngDrawn = s.rngDrawn := rfl
@[simp] theorem State.clear_script : (s.clear).script = s.script := rfl
@[simp] theorem State.clear_replies : (s.clear).replies = s.replies := rfl

end Sys2Proof.Machine
end

