-- ==== Sys2Proof/Laws/Ops.lean ====
section
/-! SUPPORT. What each shared operation of Machine/Ops.lean can do, said once. -/

namespace Sys2Proof.Machine

/-! ## Buffers -/

theorem getElem?_zipOnto {α β : Type} (f : α → β → α) (as : List α) (bs : List β) (k : Nat) :
    (zipOnto f as bs)[k]? = as[k]?.map (fun a => (bs[k]?.map (f a)).getD a) := by
  fun_induction zipOnto f as bs generalizing k with
  | case1 a as b bs ih => cases k <;> simp [ih]
  | case2 as => cases h : as[k]? <;> simp
  | case3 => simp

/-- Cell `k` of an updated buffer: updated where there is a new value, else as before (R37). -/
theorem getElem_updateBuf {α β : Type} {n : Nat} (f : α → β → α) (v : Vector α n) (l : List β) (k : Nat)
    (hk : k < n) : (updateBuf f v l)[k] = (l[k]?.map (f v[k])).getD v[k] := by
  have h : (updateBuf f v l).toList[k]? = some (updateBuf f v l)[k] := by simp [hk]
  have h' : (updateBuf f v l).toList = zipOnto f v.toList l := rfl
  rw [h', getElem?_zipOnto] at h
  simpa [hk, eq_comm] using h

/-- Cell `k` of an overwritten buffer: the new value where there is one, else the old (R37). -/
theorem getElem_overwrite {α : Type} {n : Nat} (v : Vector α n) (l : List α) (k : Nat) (hk : k < n) :
    (overwrite v l)[k] = l[k]?.getD v[k] := by
  simp [overwrite, getElem_updateBuf]

theorem getElem_overwrite_of_lt {α : Type} {n : Nat} (v : Vector α n) (l : List α) (k : Nat) (hk : k < n)
    (hl : k < l.length) : (overwrite v l)[k] = l[k] := by
  simp [getElem_overwrite, hl]

theorem getElem_overwrite_of_ge {α : Type} {n : Nat} (v : Vector α n) (l : List α) (k : Nat) (hk : k < n)
    (hl : l.length ≤ k) : (overwrite v l)[k] = v[k] := by
  simp [getElem_overwrite, hl]

/-- Row `i` after a write of rows. -/
theorem getElem_overwriteRows {α : Type} {n m : Nat} (v : Vector (Vector α m) n) (l : List (List α)) (i : Nat)
    (hi : i < n) : (overwriteRows v l)[i] = (l[i]?.map (overwrite v[i])).getD v[i] := by
  simp [overwriteRows, getElem_updateBuf]

/-- The valid part of a buffer after a write of no more values than it has cells is what was written. -/
theorem take_toList_overwrite {α : Type} {n : Nat} (v : Vector α n) (l : List α) (hl : l.length ≤ n) :
    (overwrite v l).toList.take l.length = l := by
  apply List.ext_getElem
  · simp [hl]
  · intro k h1 h2
    have : k < n := Nat.lt_of_lt_of_le h2 hl
    simp [getElem_overwrite_of_lt _ _ _ this h2]

theorem drop_toList_overwrite {α : Type} {n : Nat} (v : Vector α n) (l : List α) :
    (overwrite v l).toList.drop l.length = v.toList.drop l.length := by
  apply List.ext_getElem
  · simp
  · intro k h1 h2
    have : l.length + k < n := by simpa [Nat.lt_sub_iff_add_lt'] using h2
    simp [getElem_overwrite_of_ge _ _ _ this (Nat.le_add_right _ _)]

/-! ## How a command ends -/

@[simp] theorem finish_ok (s t : State) : finish s (.ok t) = .next t.succeed := rfl

@[simp] theorem finish_error (s : State) (e : CmdError) : finish s (.error e) = .next (s.fail e) := rfl

/-- The end of a command, once: success with its results, or the error alone (R303, R304). -/
theorem finish_cases (s : State) (r : Except CmdError State) :
    (∃ t, r = .ok t ∧ finish s r = .next t.succeed) ∨ (∃ e, r = .error e ∧ finish s r = .next (s.fail e)) := by
  cases r with
  | ok t => exact .inl ⟨t, rfl, rfl⟩
  | error e => exact .inr ⟨e, rfl, rfl⟩

theorem finish_eq_next {s t : State} {r : Except CmdError State} (h : finish s r = .next t) :
    (∃ u, r = .ok u ∧ t = u.succeed) ∨ (∃ e, r = .error e ∧ t = s.fail e) := by
  cases r with
  | ok u => exact .inl ⟨u, rfl, by simpa using h.symm⟩
  | error e => exact .inr ⟨e, rfl, by simpa using h.symm⟩

/-! ## Cells on the host interface -/

theorem readLoc_succeed (s : State) (l : Loc) (hl : l ≠ .status) : s.succeed.readLoc l = s.readLoc l := by
  cases l <;> first | rfl | exact absurd rfl hl

theorem readLoc_fail (s : State) (e : CmdError) (l : Loc) (hl : l ≠ .status) :
    (s.fail e).readLoc l = s.readLoc l := by
  cases l <;> first | rfl | exact absurd rfl hl

@[simp] theorem readLoc_cmd (s : State) : s.readLoc .cmd = 0 := rfl

@[simp] theorem readLoc_status (s : State) : s.readLoc .status = s.status := rfl

@[simp] theorem readLoc_res (s : State) : s.readLoc .res = s.res := rfl

/-- A host write to a cell leaves `STATUS`, `RES` and the model's own fields alone. -/
theorem writeLoc_rest (s : State) (l : Loc) (v : CellValue) :
    (s.writeLoc l v).status = s.status ∧ (s.writeLoc l v).res = s.res ∧ (s.writeLoc l v).rngDrawn = s.rngDrawn ∧
      (s.writeLoc l v).script = s.script ∧ (s.writeLoc l v).replies = s.replies := by
  cases l <;> exact ⟨rfl, rfl, rfl, rfl, rfl⟩

/-- A host write leaves every passphrase cell but the one it names. -/
theorem getElem_writeLoc_pass (s : State) (l : Loc) (v : CellValue) (k : Fin passWindow) (hl : l ≠ .pass k) :
    (s.writeLoc l v).pass[k] = s.pass[k] := by
  cases l with
  | pass j =>
    have hj : j.val ≠ k.val := fun h => hl (congrArg Loc.pass (Fin.ext h))
    simp only [State.writeLoc, Fin.getElem_fin, Vector.getElem_set_ne _ _ hj]
  | _ => rfl

theorem writeLoc_of_not_readWrite (s : State) (l : Loc) (v : CellValue) (hl : l.readWrite = false) :
    s.writeLoc l v = s := by
  cases l <;> first | rfl | simp [Loc.readWrite] at hl

end Sys2Proof.Machine
end

