-- ==== Sys2Proof/Laws/Bus.lean ====
section
/-! SUPPORT. What a transaction and a step can do, said once; `exec` as the completion of a command's body. -/

namespace Sys2Proof.Machine

open Sys2Proof.Safety

/-- `exec` is the completion of what the command computes under the machine's configuration. -/
theorem exec_eq_finish (i : Instr) (s : State) : exec i s = finish s (commandBody hardware i s) := by
  cases i <;> rfl

/-- A command word: the command it decodes to, or `IllegalCommand` (R91). -/
theorem execute_cases (v : CellValue) (s : State) :
    (∃ i, decode v = .ok i ∧ execute v s = exec i s) ∨
      (∃ e, decode v = .error e ∧ execute v s = .next (s.fail .illegalCommand)) := by
  unfold execute
  cases h : decode v with
  | ok i => exact .inl ⟨i, rfl, rfl⟩
  | error e => exact .inr ⟨e, rfl, rfl⟩

/-- A command word never stops the machine: it ends in success or in an error (R94, R300, R303). -/
theorem execute_next (v : CellValue) (s : State) :
    (∃ i r, decode v = .ok i ∧ commandBody hardware i s = .ok r ∧ execute v s = .next r.succeed) ∨
      (∃ e, execute v s = .next (s.fail e)) := by
  rcases execute_cases v s with ⟨i, hi, he⟩ | ⟨_, _, he⟩
  · rw [exec_eq_finish] at he
    rcases finish_cases s (commandBody hardware i s) with ⟨t, ht, hf⟩ | ⟨e, _, hf⟩
    · exact .inl ⟨i, t, hi, ht, he.trans hf⟩
    · exact .inr ⟨e, he.trans hf⟩
  · exact .inr ⟨_, he⟩

@[simp] theorem readTxn_none {a : Addr} {s : State} (h : locate hardware a = none) :
    readTxn a s = .refused (.reservedAddress a) := by simp [readTxn, h]

@[simp] theorem readTxn_some {a : Addr} {l : Loc} {s : State} (h : locate hardware a = some l) :
    readTxn a s = .next { s with replies := s.replies ++ [s.readLoc l] } := by simp [readTxn, h]

@[simp] theorem writeTxn_none {a : Addr} {v : CellValue} {s : State} (h : locate hardware a = none) :
    writeTxn a v s = .refused (.reservedAddress a) := by simp [writeTxn, h]

@[simp] theorem writeTxn_cmd {a : Addr} {v : CellValue} {s : State} (h : locate hardware a = some .cmd) :
    writeTxn a v s = execute v s := by simp [writeTxn, h]

theorem writeTxn_loc {a : Addr} {l : Loc} {v : CellValue} {s : State} (h : locate hardware a = some l) (hl : l ≠ .cmd) :
    writeTxn a v s = .next (s.writeLoc l v) := by
  unfold writeTxn
  rw [h]
  cases l <;> first | rfl | exact absurd rfl hl

/-- What a transaction can do (R62, R63, R65): a refusal at a reserved address, a reply, a command, or a stored
cell. -/
theorem transact_cases (t : Txn) (s : State) :
    (∃ a, (t = .read a ∨ ∃ v, t = .write a v) ∧ locate hardware a = none ∧ transact t s = .refused (.reservedAddress a)) ∨
    (∃ a l, t = .read a ∧ locate hardware a = some l ∧
      transact t s = .next { s with replies := s.replies ++ [s.readLoc l] }) ∨
    (∃ a v, t = .write a v ∧ locate hardware a = some .cmd ∧ transact t s = execute v s) ∨
    (∃ a l v, t = .write a v ∧ locate hardware a = some l ∧ l ≠ .cmd ∧ transact t s = .next (s.writeLoc l v)) := by
  cases t with
  | read a =>
    cases h : locate hardware a with
    | none => exact .inl ⟨a, .inl rfl, h, readTxn_none h⟩
    | some l => exact .inr (.inl ⟨a, l, rfl, h, readTxn_some h⟩)
  | write a v =>
    cases h : locate hardware a with
    | none => exact .inl ⟨a, .inr ⟨v, rfl⟩, h, writeTxn_none h⟩
    | some l =>
      by_cases hl : l = .cmd
      · subst hl
        exact .inr (.inr (.inl ⟨a, v, rfl, h, writeTxn_cmd h⟩))
      · exact .inr (.inr (.inr ⟨a, l, v, rfl, h, hl, writeTxn_loc h hl⟩))

@[simp] theorem step_idle {s : State} (h : s.script = []) : step s = .next s := by simp [step, h]

/-- A step runs the head of the script on the state with the rest of it (R74). -/
@[simp] theorem step_cons {s : State} {t : Txn} {rest : List Txn} (h : s.script = t :: rest) :
    step s = transact t { s with script := rest } := by simp [step, h]

end Sys2Proof.Machine
end

