-- ==== Sys2Proof/Laws/Commands.lean ====
section
/-! SUPPORT. When each command's body succeeds and with what, said once: later proofs cite these instead of unfolding
the checks. -/

namespace Sys2Proof.Machine

theorem inRange_iff (lo hi n : Nat) : inRange lo hi n = true ↔ lo ≤ n ∧ n ≤ hi := by simp [inRange]

theorem thresholdOk_iff (t c : Nat) : thresholdOk t c = true ↔ 1 ≤ t ∧ t ≤ c ∧ c ≤ 16 := by
  simp [thresholdOk, and_assoc]

theorem secretLengthOk_iff (n : Nat) : secretLengthOk n = true ↔ 16 ≤ n ∧ n ≤ 32 ∧ n % 2 = 0 := by
  simp [secretLengthOk, and_assoc]

theorem distinct_iff (xs : List Byte) : distinct xs = true ↔ xs.Nodup := by simp [distinct]

/-- `PASS_MAX` of the machine (log 9). -/
@[simp] theorem hardware_passMax : hardware.passMax.val = 128 := rfl

/-! ## Checks in front of a result -/

/-- A check and its error: the command goes on exactly when the check does not fail. -/
theorem guard_eq_ok {α : Type} {p : Prop} [Decidable p] {e : CmdError} {x : Except CmdError α} {t : α} :
    (if p then .error e else x) = .ok t ↔ ¬ p ∧ x = .ok t := by
  by_cases h : p <;> simp [h]

theorem ok_eq_ok {α : Type} {x t : α} : (Except.ok x : Except CmdError α) = .ok t ↔ t = x := by
  simp [eq_comm]

/-- An intermediate result passed on. -/
theorem bind_eq_ok {α β : Type} {r : Except CmdError α} {f : α → Except CmdError β} {t : β} :
    r.bind f = .ok t ↔ ∃ a, r = .ok a ∧ f a = .ok t := by
  cases r <;> simp [Except.bind]

theorem map_eq_ok {α β : Type} {r : Except CmdError α} {f : α → β} {t : β} :
    r.map f = .ok t ↔ ∃ a, r = .ok a ∧ t = f a := by
  cases r <;> simp [Except.map, eq_comm]

/-! ## The checks and the result of each command -/

theorem wencBody_eq_ok {C : Config} {s t : State} :
    wencBody C s = .ok t ↔ (1 ≤ s.len.toNat ∧ s.len.toNat ≤ 32) ∧ t = s.putWords (wordsOfBytes s.value) := by
  simp only [wencBody, guard_eq_ok, Bool.not_eq_true', Bool.not_eq_false, inRange_iff, ok_eq_ok]

theorem wdecBody_eq_ok {C : Config} {s t : State} :
    wdecBody C s = .ok t ↔
      (1 ≤ s.wlen.toNat ∧ s.wlen.toNat ≤ 26) ∧ ∃ b, bytesOfWords s.words = .ok b ∧ t = s.putValue b := by
  simp only [wdecBody, guard_eq_ok, Bool.not_eq_true', Bool.not_eq_false, inRange_iff, map_eq_ok]

theorem rspolyBody_eq_ok {C : Config} {s t : State} :
    rspolyBody C s = .ok t ↔ s.wlen.toNat ≤ 33 ∧ t = s.putRes ((customPolymod C s.words).setWidth 32) := by
  simp only [rspolyBody, guard_eq_ok, Bool.not_eq_true', Bool.not_eq_false, inRange_iff, ok_eq_ok, Nat.zero_le, true_and]

theorem rscreateBody_eq_ok {C : Config} {s t : State} :
    rscreateBody C s = .ok t ↔ (3 ≤ s.wlen.toNat ∧ s.wlen.toNat ≤ 33) ∧ t = s.putW (rsCreate C s.words) := by
  simp only [rscreateBody, guard_eq_ok, Bool.not_eq_true', Bool.not_eq_false, inRange_iff, ok_eq_ok]

theorem rsverifyBody_eq_ok {C : Config} {s t : State} :
    rsverifyBody C s = .ok t ↔
      (3 ≤ s.wlen.toNat ∧ s.wlen.toNat ≤ 33) ∧ t = s.putRes (if rsVerify C s.words then 1 else 0) := by
  simp only [rsverifyBody, guard_eq_ok, Bool.not_eq_true', Bool.not_eq_false, inRange_iff, ok_eq_ok]

theorem interpBody_eq_ok {C : Config} {q n : Byte} {s t : State} :
    interpBody C q n s = .ok t ↔
      (1 ≤ n.toNat ∧ n.toNat ≤ 16) ∧ (1 ≤ s.len.toNat ∧ s.len.toNat ≤ 32) ∧
        ((s.points n.toNat).map Prod.fst).Nodup ∧
        t = s.putVal (interpolate C (s.points n.toNat) q s.len.toNat) := by
  simp only [interpBody, guard_eq_ok, Bool.not_eq_true', Bool.not_eq_false, inRange_iff, distinct_iff, ok_eq_ok]

theorem splitBody_eq_ok {C : Config} {c k : Byte} {s t : State} :
    splitBody C c k s = .ok t ↔
      (1 ≤ k.toNat ∧ k.toNat ≤ c.toNat ∧ c.toNat ≤ 16) ∧ (16 ≤ s.len.toNat ∧ s.len.toNat ≤ 32) ∧
        t = s.putPoints (shamirSplit C s.rngDrawn c.toNat k.toNat s.value)
          (s.rngDrawn + splitDraws k.toNat s.len.toNat) := by
  simp only [splitBody, guard_eq_ok, Bool.not_eq_true', Bool.not_eq_false, inRange_iff, thresholdOk_iff, ok_eq_ok]

theorem srecoverBody_eq_ok {C : Config} {k : Byte} {s t : State} :
    srecoverBody C k s = .ok t ↔
      (1 ≤ k.toNat ∧ k.toNat ≤ 16) ∧ (16 ≤ s.len.toNat ∧ s.len.toNat ≤ 32) ∧
        (2 ≤ k.toNat → ((s.points k.toNat).map Prod.fst).Nodup) ∧
        ∃ b, shamirRecover C k.toNat (s.points k.toNat) s.len.toNat = .ok b ∧ t = s.putVal b := by
  simp only [srecoverBody, guard_eq_ok, Bool.not_eq_true', Bool.not_eq_false, inRange_iff, map_eq_ok, Bool.and_eq_true,
    decide_eq_true_eq, not_and, distinct_iff]

theorem cipherBody_eq_ok {f : List Byte → BitVec 15 → BitVec 5 → List Byte → List Byte} {s t : State} :
    cipherBody C f s = .ok t ↔
      (16 ≤ s.len.toNat ∧ s.len.toNat ≤ 32 ∧ s.len.toNat % 2 = 0) ∧ s.plen.toNat ≤ C.passMax.val ∧
        t = s.putVal (f s.value s.id s.ie s.passphrase) := by
  simp only [cipherBody, guard_eq_ok, Bool.not_eq_true', Bool.not_eq_false, secretLengthOk_iff, Nat.not_lt, ok_eq_ok]

theorem shencBody_eq_ok {C : Config} {s t : State} :
    shencBody C s = .ok t ↔
      (1 ≤ s.gt.toNat ∧ s.gt.toNat ≤ s.gc.toNat ∧ s.gc.toNat ≤ 16) ∧ (1 ≤ s.mt.toNat ∧ s.mt.toNat ≤ 16) ∧
        (1 ≤ s.len.toNat ∧ s.len.toNat ≤ 32) ∧ t = s.putWords (shareEncode C s.shareRecord) := by
  simp only [shencBody, guard_eq_ok, Bool.not_eq_true', Bool.not_eq_false, inRange_iff, thresholdOk_iff, ok_eq_ok]

theorem decodeW_eq_ok {C : Config} {s : State} {h : Share} :
    decodeW C s = .ok h ↔ (8 ≤ s.wlen.toNat ∧ s.wlen.toNat ≤ 33) ∧ shareDecode C s.words = .ok h := by
  simp only [decodeW, guard_eq_ok, Bool.not_eq_true', Bool.not_eq_false, inRange_iff]

theorem shdecBody_eq_ok {C : Config} {s t : State} :
    shdecBody C s = .ok t ↔ ∃ h, decodeW C s = .ok h ∧ t = s.putShare h := map_eq_ok

theorem check1Body_eq_ok {C : Config} {s t : State} :
    check1Body C s = .ok t ↔ ∃ h, decodeW C s = .ok h ∧ t = s.putChecked h := map_eq_ok

theorem generateBody_eq_ok {C : Config} {s t : State} :
    generateBody C s = .ok t ↔
      (1 ≤ s.gt.toNat ∧ s.gt.toNat ≤ s.gc.toNat ∧ s.gc.toNat ≤ 16) ∧
        (16 ≤ s.len.toNat ∧ s.len.toNat ≤ 32 ∧ s.len.toNat % 2 = 0) ∧
        (∀ p ∈ s.groups, 1 ≤ p.2 ∧ p.2 ≤ p.1 ∧ p.1 ≤ 16) ∧ s.plen.toNat ≤ C.passMax.val ∧
        t = s.putMnemonics (generate C s.rngDrawn s.value s.ie s.id s.passphrase s.gt s.gc s.groups)
          (s.rngDrawn + generateDraws s.gt.toNat s.len.toNat s.groups) := by
  simp only [generateBody, guard_eq_ok, Bool.not_eq_true', Bool.not_eq_false, thresholdOk_iff, secretLengthOk_iff, List.all_eq_true,
    Nat.not_lt, ok_eq_ok]

theorem recoverBody_eq_ok {C : Config} {s t : State} :
    recoverBody C s = .ok t ↔
      s.nsh.toNat ≤ 256 ∧ s.plen.toNat ≤ C.passMax.val ∧ s.nsh ≠ 0 ∧
        ∃ h0 hs b, decodeRows C s.rows = .ok (h0 :: hs) ∧ recoverShares C s.passphrase h0 hs = .ok b ∧
          t = s.putValue b := by
  simp only [recoverBody, guard_eq_ok, Nat.not_lt, bind_eq_ok]
  rcases decodeRows C s.rows with _ | (_ | ⟨h0, hs⟩) <;> simp [map_eq_ok]

/-! ## The pure functions that can fail -/

theorem bytesOfWords_eq_ok {w : List Word} {b : List Byte} :
    bytesOfWords w = .ok b ↔
      wordsBe w >>> (10 * w.length - leadingBits w.length) = 0 ∧
        b = bytesBe (wordsBe w) (decodedLength w.length) := by
  unfold bytesOfWords
  by_cases h : wordsBe w >>> (10 * w.length - leadingBits w.length) = 0 <;> simp [h, eq_comm]

theorem bytesOfWords_eq_error {w : List Word} {e : CmdError} :
    bytesOfWords w = .error e ↔
      wordsBe w >>> (10 * w.length - leadingBits w.length) ≠ 0 ∧ e = .invalidPadding := by
  unfold bytesOfWords
  by_cases h : wordsBe w >>> (10 * w.length - leadingBits w.length) = 0 <;> simp [h, eq_comm]

/-- A share decodes when its checksum holds, its group threshold is at most its group count, and its padding is zero,
tested in this order (R235). -/
theorem shareDecode_eq_ok {C : Config} {w : List Word} {h : Share} :
    shareDecode C w = .ok h ↔
      rsVerify C w = true ∧
        (metaShare (w.getD 0 0) (w.getD 1 0) (w.getD 2 0) (w.getD 3 0) []).gt ≤
          (metaShare (w.getD 0 0) (w.getD 1 0) (w.getD 2 0) (w.getD 3 0) []).gc ∧
        ∃ b, bytesOfWords (valueWords w) = .ok b ∧
          h = metaShare (w.getD 0 0) (w.getD 1 0) (w.getD 2 0) (w.getD 3 0) b := by
  simp only [shareDecode, guard_eq_ok, Bool.not_eq_true', Bool.not_eq_false, BitVec.not_lt, map_eq_ok]

/-- Recovery with one point returns it; with more it needs the digest to agree (R187). -/
theorem shamirRecover_one (C : Config) (pts : List (Byte × List Byte)) (len : Nat) :
    shamirRecover C 1 pts len = .ok ((pts.headD (0, [])).2.take len) := rfl

theorem shamirRecover_eq_ok {C : Config} {t len : Nat} {pts : List (Byte × List Byte)} {b : List Byte} (ht : t ≠ 1) :
    shamirRecover C t pts len = .ok b ↔
      (hmac C ((interpolate C (pts.take t) digestIndex len).drop 4) (interpolate C (pts.take t) secretIndex len)).take 4
          = (interpolate C (pts.take t) digestIndex len).take 4 ∧
        b = interpolate C (pts.take t) secretIndex len := by
  unfold shamirRecover
  simp only [ht, if_false]
  split
  · rename_i h
    simp [h]
  · rename_i h
    simp [not_not.1 h, eq_comm]

theorem decodeRows_cons_ok {C : Config} {row : BitVec 6 × Vector Word 33} {rows : List (BitVec 6 × Vector Word 33)}
    {l : List Share} :
    decodeRows C (row :: rows) = .ok l ↔ ∃ h hs, decodeRow C row = .ok h ∧ decodeRows C rows = .ok hs ∧ l = h :: hs := by
  simp only [decodeRows, bind_eq_ok, map_eq_ok, exists_and_left]

theorem decodeRow_eq_ok {C : Config} {row : BitVec 6 × Vector Word 33} {h : Share} :
    decodeRow C row = .ok h ↔
      (8 ≤ row.1.toNat ∧ row.1.toNat ≤ 33) ∧ shareDecode C (row.2.toList.take row.1.toNat) = .ok h := by
  simp only [decodeRow, guard_eq_ok, Bool.not_eq_true', Bool.not_eq_false, inRange_iff]

theorem groupShares_cons_ok {h : Share} {hs : List Share} {gs l : List Group} :
    groupShares (h :: hs) gs = .ok l ↔ ∃ gs', addShare h gs = .ok gs' ∧ groupShares hs gs' = .ok l := by
  simp only [groupShares, bind_eq_ok]

theorem selectGroups_eq_ok {gt : Nat} {gs used : List Group} :
    selectGroups gt gs = .ok used ↔
      gt ≤ gs.length ∧ gt ≤ (gs.filter Group.qualifies).length ∧ used = (gs.filter Group.qualifies).take gt := by
  simp only [selectGroups, guard_eq_ok, Nat.not_lt, ok_eq_ok, List.length_take, Nat.le_min, Nat.le_refl, true_and]

theorem recoverGroups_cons_ok {C : Config} {n : Nat} {g : Group} {gs : List Group} {l : List (Byte × List Byte)} :
    recoverGroups C n (g :: gs) = .ok l ↔
      ∃ p ps, recoverGroup C n g = .ok p ∧ recoverGroups C n gs = .ok ps ∧ l = p :: ps := by
  simp only [recoverGroups, bind_eq_ok, map_eq_ok, exists_and_left]

theorem recoverShares_eq_ok {C : Config} {pp : List Byte} {h0 : Share} {hs : List Share} {b : List Byte} :
    recoverShares C pp h0 hs = .ok b ↔
      hs.all (sameBackup h0) = true ∧ secretLengthOk h0.value.length = true ∧
        ∃ gs used, groupShares (h0 :: hs) [] = .ok gs ∧ selectGroups h0.gt.toNat gs = .ok used ∧
          recoverSecret C h0.gt.toNat h0.value.length h0.id h0.ie pp used = .ok b := by
  simp only [recoverShares, guard_eq_ok, Bool.not_eq_true', Bool.not_eq_false, bind_eq_ok, exists_and_left]

theorem recoverSecret_eq_ok {C : Config} {gt n : Nat} {ident : BitVec 15} {ie : BitVec 5} {pp : List Byte}
    {used : List Group} {b : List Byte} :
    recoverSecret C gt n ident ie pp used = .ok b ↔
      ∃ pts ems, recoverGroups C n used = .ok pts ∧ shamirRecover C gt pts n = .ok ems ∧
        b = feistelDecrypt C ems ident ie pp := by
  simp only [recoverSecret, bind_eq_ok, map_eq_ok, exists_and_left]

end Sys2Proof.Machine
end

