-- ==== Sys2Proof/Laws/Lengths.lean ====
section
/-! SUPPORT. The lengths of what the pure functions return: the contracts of the ports (R321, R322, R324) and the
sizes the buffers rely on. -/

namespace Sys2Proof.Machine

@[simp] theorem length_kdf (C : Config) (p s : List Byte) (it n : Nat) : (kdf C p s it n).length = n := by simp [kdf]

@[simp] theorem length_hmac (C : Config) (k m : List Byte) : (hmac C k m).length = 32 := by simp [hmac]

@[simp] theorem length_rng (C : Config) (d n : Nat) : (rng C d n).length = n := by simp [rng]

@[simp] theorem length_bytesBe (v n : Nat) : (bytesBe v n).length = n := by simp [bytesBe]

@[simp] theorem length_wordsOfBytes (b : List Byte) : (wordsOfBytes b).length = wordCount b.length := by
  simp [wordsOfBytes]

theorem length_of_bytesOfWords {w : List Word} {b : List Byte} (h : bytesOfWords w = .ok b) :
    b.length = decodedLength w.length := by
  unfold bytesOfWords at h
  by_cases hz : wordsBe w >>> (10 * w.length - leadingBits w.length) = 0
  · simp only [hz] at h
    simp at h
    simp [← h]
  · simp [hz] at h

@[simp] theorem length_checksumWords (c : Checksum) : (checksumWords c).length = 3 := rfl

theorem length_rsCreate (C : Config) (w : List Word) (h : 3 ≤ w.length) : (rsCreate C w).length = w.length := by
  simp [rsCreate]
  omega

@[simp] theorem length_metaWords (h : Share) : (metaWords h).length = 4 := rfl

/-- A mnemonic has 4 + wc(n) + 3 words (R230). -/
@[simp] theorem length_shareEncode (C : Config) (h : Share) :
    (shareEncode C h).length = 7 + wordCount h.value.length := by
  unfold shareEncode
  rw [length_rsCreate] <;> simp <;> omega

@[simp] theorem length_valueWords (w : List Word) : (valueWords w).length = w.length - 7 := by
  simp [valueWords]
  omega

/-- `interpolate` returns `len` bytes when every value has `len` (R181). -/
theorem length_interpolate (C : Config) (pts : List (Byte × List Byte)) (q : Byte) (len : Nat)
    (h : ∀ p ∈ pts, p.2.length = len) : (interpolate C pts q len).length = len := by
  unfold interpolate
  split
  · rename_i p hp
    simp [h p (List.mem_of_find?_eq_some hp)]
  · simp

theorem length_digestShare (C : Config) (rd secret : List Byte) : (digestShare C rd secret).length = 4 + rd.length := by
  simp [digestShare]

/-- Every value of a split's points has the secret's length (R180, R185). -/
theorem length_of_mem_splitPoints (C : Config) (drawn t : Nat) (secret : List Byte) (h4 : 4 ≤ secret.length)
    (p : Byte × List Byte) (hp : p ∈ splitPoints C drawn t secret) : p.2.length = secret.length := by
  simp only [splitPoints, List.mem_append, List.mem_cons, List.not_mem_nil, or_false] at hp
  rcases hp with hp | rfl | rfl
  · have := (List.of_mem_zip hp).2
    simp only [randomShares, List.mem_map] at this
    obtain ⟨i, _, hi⟩ := this
    simp [← hi]
  · simp [length_digestShare]
    omega
  · rfl

@[simp] theorem length_shamirSplit (C : Config) (drawn count t : Nat) (secret : List Byte) :
    (shamirSplit C drawn count t secret).length = count := by
  unfold shamirSplit
  split <;> simp

/-- Every share has the secret's length (R185). -/
theorem length_of_mem_shamirSplit (C : Config) (drawn count t : Nat) (secret : List Byte) (h4 : 4 ≤ secret.length)
    (y : List Byte) (hy : y ∈ shamirSplit C drawn count t secret) : y.length = secret.length := by
  unfold shamirSplit at hy
  split at hy
  · simp [List.eq_of_mem_replicate hy]
  · simp only [List.mem_map] at hy
    obtain ⟨x, _, rfl⟩ := hy
    exact length_interpolate _ _ _ _ (length_of_mem_splitPoints C drawn t secret h4)

@[simp] theorem length_xorBytes (a b : List Byte) : (xorBytes a b).length = min a.length b.length := by
  simp [xorBytes]

@[simp] theorem length_roundF (C : Config) (ident : BitVec 15) (ie : BitVec 5) (pp : List Byte) (i : Byte)
    (r : List Byte) : (roundF C ident ie pp i r).length = r.length := by simp [roundF]

/-- The halves of an even-length secret stay equally long through the rounds (R213). -/
theorem length_foldl_feistelRound (C : Config) (ident : BitVec 15) (ie : BitVec 5) (pp : List Byte) (order : List Byte)
    (lr : List Byte × List Byte) (n : Nat) (h1 : lr.1.length = n) (h2 : lr.2.length = n) :
    (order.foldl (feistelRound C ident ie pp) lr).1.length = n ∧
      (order.foldl (feistelRound C ident ie pp) lr).2.length = n := by
  induction order generalizing lr with
  | nil => exact ⟨h1, h2⟩
  | cons i order ih => exact ih _ (by simp [feistelRound, h2]) (by simp [feistelRound, h1, h2])

/-- The output of the cipher has the length of its input (R214). -/
theorem length_feistel (C : Config) (order sec : List Byte) (ident : BitVec 15) (ie : BitVec 5) (pp : List Byte)
    (h : sec.length % 2 = 0) : (feistel C order sec ident ie pp).length = sec.length := by
  have := length_foldl_feistelRound C ident ie pp order (sec.take (sec.length / 2), sec.drop (sec.length / 2))
    (sec.length / 2) (by simp; omega) (by simp; omega)
  simp only [feistel, List.length_append, this]
  omega

end Sys2Proof.Machine
end

