-- ==== Sys2Proof/Laws/PerInstr.lean ====
section
/-! SUPPORT. Per-command facts about the syntax: the encoding of every command has its opcode in bits 7:0, zero in bits
31:24, and matches a row of the opcode table that bears the command's mnemonic (30_encoding.md R90, R92, R95). -/

namespace Sys2Proof.Laws.EncodesItsRow

/-- The command is well formed, its word holds its opcode and no reserved bit, and its word matches its row. -/
def Statement (i : Instr) : Prop :=
  i.wf = true ∧ opcField (encode i) = i.opcode ∧ zField (encode i) = 0 ∧
    ∃ r ∈ opcodeRows, r.mnemonic = i.mnemonic ∧ r.matches (encode i) = true

end Sys2Proof.Laws.EncodesItsRow

namespace Sys2Proof.Laws

open Sys2Proof

theorem opcField_commandWord (o a b : Byte) : opcField (commandWord o a b) = o := by
  apply BitVec.eq_of_getLsbD_eq
  intro i hi
  simp only [opcField, commandWord, BitVec.getLsbD_extractLsb', BitVec.getLsbD_or, BitVec.getLsbD_shiftLeft,
    BitVec.getLsbD_setWidth]
  have h1 : i < 32 := by omega
  have h2 : i < 16 := by omega
  simp [h1, h2, hi]

theorem zField_commandWord (o a b : Byte) : zField (commandWord o a b) = 0 := by
  apply BitVec.eq_of_getLsbD_eq
  intro i hi
  simp only [zField, commandWord, BitVec.getLsbD_extractLsb', BitVec.getLsbD_or, BitVec.getLsbD_shiftLeft,
    BitVec.getLsbD_setWidth]
  have h0 : 8 ≤ 24 + i := by omega
  have h1 : 8 ≤ 24 + i - 8 := by omega
  have h2 : 8 ≤ 24 + i - 16 := by omega
  simp [BitVec.getLsbD_of_ge, h0, h1, h2]

/-- A row that looks at the opcode and the reserved byte only (R95: the command takes `A` and `B`). -/
theorem and_mask_ab (o a b : Byte) : commandWord o a b &&& 0xFF0000FF = commandWord o 0 0 := by
  apply BitVec.eq_of_getLsbD_eq
  intro i hi
  simp only [commandWord, BitVec.getLsbD_and, BitVec.getLsbD_or, BitVec.getLsbD_shiftLeft, BitVec.getLsbD_setWidth]
  interval_cases i <;> simp [BitVec.getLsbD_of_ge]

/-- A row that ignores `B` only. -/
theorem and_mask_b (o b : Byte) : commandWord o 0 b &&& 0xFF00FFFF = commandWord o 0 0 := by
  apply BitVec.eq_of_getLsbD_eq
  intro i hi
  simp only [commandWord, BitVec.getLsbD_and, BitVec.getLsbD_or, BitVec.getLsbD_shiftLeft, BitVec.getLsbD_setWidth]
  interval_cases i <;> simp [BitVec.getLsbD_of_ge]

theorem EncodesItsRow.nop : EncodesItsRow.Statement .nop :=
  ⟨rfl, opcField_commandWord .., zField_commandWord .., opcodeRows[0], by simp [opcodeRows], rfl, rfl⟩

theorem EncodesItsRow.clr : EncodesItsRow.Statement .clr :=
  ⟨rfl, opcField_commandWord .., zField_commandWord .., opcodeRows[1], by simp [opcodeRows], rfl, rfl⟩

theorem EncodesItsRow.gfmul (a b : Byte) : EncodesItsRow.Statement (.gfmul a b) :=
  ⟨rfl, opcField_commandWord .., zField_commandWord .., opcodeRows[2], by simp [opcodeRows], rfl,
    beq_iff_eq.mpr (and_mask_ab 0x10 a b)⟩

theorem EncodesItsRow.wenc : EncodesItsRow.Statement .wenc :=
  ⟨rfl, opcField_commandWord .., zField_commandWord .., opcodeRows[3], by simp [opcodeRows], rfl, rfl⟩

theorem EncodesItsRow.wdec : EncodesItsRow.Statement .wdec :=
  ⟨rfl, opcField_commandWord .., zField_commandWord .., opcodeRows[4], by simp [opcodeRows], rfl, rfl⟩

theorem EncodesItsRow.rspoly : EncodesItsRow.Statement .rspoly :=
  ⟨rfl, opcField_commandWord .., zField_commandWord .., opcodeRows[5], by simp [opcodeRows], rfl, rfl⟩

theorem EncodesItsRow.rscreate : EncodesItsRow.Statement .rscreate :=
  ⟨rfl, opcField_commandWord .., zField_commandWord .., opcodeRows[6], by simp [opcodeRows], rfl, rfl⟩

theorem EncodesItsRow.rsverify : EncodesItsRow.Statement .rsverify :=
  ⟨rfl, opcField_commandWord .., zField_commandWord .., opcodeRows[7], by simp [opcodeRows], rfl, rfl⟩

theorem EncodesItsRow.interp (a b : Byte) : EncodesItsRow.Statement (.interp a b) :=
  ⟨rfl, opcField_commandWord .., zField_commandWord .., opcodeRows[8], by simp [opcodeRows], rfl,
    beq_iff_eq.mpr (and_mask_ab 0x40 a b)⟩

theorem EncodesItsRow.split (a b : Byte) : EncodesItsRow.Statement (.split a b) :=
  ⟨rfl, opcField_commandWord .., zField_commandWord .., opcodeRows[9], by simp [opcodeRows], rfl,
    beq_iff_eq.mpr (and_mask_ab 0x41 a b)⟩

theorem EncodesItsRow.srecover (t : Byte) : EncodesItsRow.Statement (.srecover t) :=
  ⟨rfl, opcField_commandWord .., zField_commandWord .., opcodeRows[10], by simp [opcodeRows], rfl,
    beq_iff_eq.mpr (and_mask_b 0x42 t)⟩

theorem EncodesItsRow.fenc : EncodesItsRow.Statement .fenc :=
  ⟨rfl, opcField_commandWord .., zField_commandWord .., opcodeRows[11], by simp [opcodeRows], rfl, rfl⟩

theorem EncodesItsRow.fdec : EncodesItsRow.Statement .fdec :=
  ⟨rfl, opcField_commandWord .., zField_commandWord .., opcodeRows[12], by simp [opcodeRows], rfl, rfl⟩

theorem EncodesItsRow.shenc : EncodesItsRow.Statement .shenc :=
  ⟨rfl, opcField_commandWord .., zField_commandWord .., opcodeRows[13], by simp [opcodeRows], rfl, rfl⟩

theorem EncodesItsRow.shdec : EncodesItsRow.Statement .shdec :=
  ⟨rfl, opcField_commandWord .., zField_commandWord .., opcodeRows[14], by simp [opcodeRows], rfl, rfl⟩

theorem EncodesItsRow.check1 : EncodesItsRow.Statement .check1 :=
  ⟨rfl, opcField_commandWord .., zField_commandWord .., opcodeRows[15], by simp [opcodeRows], rfl, rfl⟩

theorem EncodesItsRow.generate : EncodesItsRow.Statement .generate :=
  ⟨rfl, opcField_commandWord .., zField_commandWord .., opcodeRows[16], by simp [opcodeRows], rfl, rfl⟩

theorem EncodesItsRow.recover : EncodesItsRow.Statement .recover :=
  ⟨rfl, opcField_commandWord .., zField_commandWord .., opcodeRows[17], by simp [opcodeRows], rfl, rfl⟩

end Sys2Proof.Laws
end

