-- ==== Sys2Proof/Machine/Script.lean ====
section
/-! DEFINITION. Host scripts (30_encoding.md R110 to R112): the pseudo-lines and their expansions, and the three scripts
that stand for the source's exposed interface. "They add nothing to the machine" (R111). -/

namespace Sys2Proof.Machine

/-- The transactions of a script, in order (R110). -/
def assemble (ls : List Line) : List Txn := ls.map Line.txn

/-- `s` with a script for the host to run, in place of the one it had (log 1). -/
def State.withScript (s : State) (ls : List Line) : State := { s with script := assemble ls }

/-- `WR` to the cells `loc 0`, `loc 1`, ... of a buffer, one value each (R111). The spec says nothing of more values than
the buffer has cells: values beyond the last cell give no line (DESIGN CHOICE, log 21). -/
def writeCells {n : Nat} (loc : Fin n → Loc) (vs : List CellValue) : List Line :=
  ((List.finRange n).zip vs).map (fun p => .wr (loc p.1) p.2)

/-- `RD` of the cells `loc 0`, `loc 1`, ... of a buffer, all of them in order (R110, R112). -/
def readCells {n : Nat} (loc : Fin n → Loc) : List Line := (List.finRange n).map (fun k => .rd (loc k))

/-- `LDB VAL, <bytes>` (R111). -/
def ldbVal (b : List Byte) : List Line :=
  writeCells Loc.val (b.map (BitVec.setWidth 32)) ++ [.wr .len (BitVec.ofNat 32 b.length)]

/-- `LDB PASS, <bytes>` (R111). -/
def ldbPass (b : List Byte) : List Line :=
  writeCells Loc.pass (b.map (BitVec.setWidth 32)) ++ [.wr .plen (BitVec.ofNat 32 b.length)]

/-- `LDB XS, <bytes>` (R111): no length write. -/
def ldbXs (b : List Byte) : List Line := writeCells Loc.xs (b.map (BitVec.setWidth 32))

/-- `LDB YS[i], <bytes>` (R111): no length write. -/
def ldbYs (i : Fin 16) (b : List Byte) : List Line := writeCells (Loc.ys i) (b.map (BitVec.setWidth 32))

/-- `LDW w0 w1 ...` (R111). -/
def ldw (ws : List Word) : List Line :=
  writeCells Loc.w (ws.map (BitVec.setWidth 32)) ++ [.wr .wlen (BitVec.ofNat 32 ws.length)]

/-- `LDM <s>: w0 w1 ...` (R111). -/
def ldm (m : Fin 256) (ws : List Word) : List Line :=
  writeCells (Loc.mn m) (ws.map (BitVec.setWidth 32)) ++ [.wr (.mnlen m) (BitVec.ofNat 32 ws.length)]

/-- `SHARE id, ie, gi, gt, gc, mi, mt` (R111). -/
def shareLines (ident ie gi gt gc mi mt : CellValue) : List Line :=
  [.wr .id ident, .wr .ie ie, .wr .gi gi, .wr .gt gt, .wr .gc gc, .wr .mi mi, .wr .mt mt]

/-- `GROUPS (c0,t0) (c1,t1) ...` (R111): count and threshold of each group in order, then `GC`. The spec says nothing of
more than 16 pairs, for which there is no `GRPCNT[16]`: the pairs beyond the sixteenth give no line, and `GC` is still
written with the number of all pairs (DESIGN CHOICE, log 21). -/
def groupsLines (gs : List (CellValue × CellValue)) : List Line :=
  (((List.finRange 16).zip gs).map (fun p => [Line.wr (.grpcnt p.1) p.2.1, Line.wr (.grpthr p.1) p.2.2])).flatten
    ++ [.wr .gc (BitVec.ofNat 32 gs.length)]

/-- `EXPECT OK` and `EXPECT <ErrorName>` (R111): a read of `STATUS`; the expected value is a comment. -/
def expectLine : Line := .rd .status

/-- The value `EXPECT` states (R111): 0x00000001 for OK, else the error's status word. -/
def expectedStatus : Option CmdError → CellValue
  | none => statusOk
  | some e => statusError e

/-- The source's `generate_mnemonics(...)` as a script (R112), the reads of `NSH`, `MNLEN` and `MN` at its end. A script is
straight-line (R110), so which rows are read cannot depend on what `NSH` returns: all cells of the two buffers are read, and
the host takes of them the mnemonics that `NSH` and `MNLEN` count (DESIGN CHOICE, log 22). -/
def generateScript (ms : List Byte) (ie ident : CellValue) (pp : List Byte) (gt : CellValue)
    (gs : List (CellValue × CellValue)) : List Line :=
  ldbVal ms ++ [.wr .ie ie, .wr .id ident] ++ ldbPass pp ++ [.wr .gt gt] ++ groupsLines gs ++ [.command .generate]
    ++ [.rd .nsh] ++ readCells Loc.mnlen ++ (List.finRange 256).flatMap (fun m => readCells (Loc.mn m))

/-- The source's `recover_master_secret(shares)` as a script (R112), the passphrase of C5 included, the reads of `LEN` and
`VAL` at its end: all cells of `VAL`, of which the host takes the first `LEN` (DESIGN CHOICE, log 22). The spec says nothing
of more than 256 shares, for which there is no `MN[256]`: the shares beyond the 256th give no line, and `NSH` is still
written with the number of all shares, of which it keeps the low 9 bits (R63; DESIGN CHOICE, log 21). -/
def recoverScript (shares : List (List Word)) (pp : List Byte) : List Line :=
  (((List.finRange 256).zip shares).map (fun p => ldm p.1 p.2)).flatten
    ++ [.wr .nsh (BitVec.ofNat 32 shares.length)] ++ ldbPass pp ++ [.command .recover] ++ [.rd .len] ++ readCells Loc.val

/-- The source's `check_single_share(mnemonic)` as a script (R112), with the five reads. -/
def check1Script (ws : List Word) : List Line :=
  ldw ws ++ [.command .check1, .rd .gi, .rd .mi, .rd .mt, .rd .id, .rd .ie]

end Sys2Proof.Machine
end

