-- ==== Sys2Proof/Laws/Script.lean ====
section
/-! SUPPORT. What the pseudo-lines of host scripts expand to (30_encoding.md R110, R111): one transaction a line, one line
for each value that has a cell. -/

namespace Sys2Proof.Machine

@[simp] theorem assemble_append (ks ls : List Line) : assemble (ks ++ ls) = assemble ks ++ assemble ls := by
  simp [assemble]

@[simp] theorem length_assemble (ls : List Line) : (assemble ls).length = ls.length := by simp [assemble]

/-- Values beyond the last cell give no line (log 21). -/
@[simp] theorem length_writeCells {n : Nat} (loc : Fin n → Loc) (vs : List CellValue) :
    (writeCells loc vs).length = min n vs.length := by simp [writeCells]

/-- Every line writes a value to its own cell. -/
theorem getElem?_writeCells {n : Nat} (loc : Fin n → Loc) (vs : List CellValue) (k : Fin n) :
    (writeCells loc vs)[k.val]? = vs[k.val]?.map (fun v => Line.wr (loc k) v) := by
  cases h : vs[k.val]? with
  | none => simpa [writeCells] using h
  | some v => simp [writeCells, List.zip, List.getElem?_zipWith, h]

@[simp] theorem length_readCells {n : Nat} (loc : Fin n → Loc) : (readCells loc).length = n := by simp [readCells]

theorem mem_readCells {n : Nat} (loc : Fin n → Loc) (l : Line) : l ∈ readCells loc ↔ ∃ k, Line.rd (loc k) = l := by
  simp [readCells]

@[simp] theorem length_groupsLines (gs : List (CellValue × CellValue)) :
    (groupsLines gs).length = 2 * min 16 gs.length + 1 := by
  simp [groupsLines, List.length_flatten, Function.comp_def, Nat.mul_comm]

end Sys2Proof.Machine
end

