-- ==== Sys2Proof/Tests/Slice0.lean ====
section
/-! SUPPORT. The model's own tests and, last, a witness for every statement with hypotheses. Expected values are those of
95_test_vectors.md Parts 2 and 3, worked there from the rules; commands that call a port use its stub binding. -/

namespace Sys2Proof.Tests

open Sys2Proof.Machine Sys2Proof.Safety

-- One theorem at a time: many kernel evaluations side by side take more memory than the check allows.
set_option Elab.async false

/-! ## Helpers -/

def sumBytes (b : List Byte) : Nat := b.foldl (fun n x => n + x.toNat) 0

/-- The stub binding of 95_test_vectors.md section 0, the `RNG` counter starting at `c`. -/
def stub (c : Nat) : Ports where
  kdfByte p s it _ k := BitVec.ofNat 8 (sumBytes p + sumBytes s + it + k)
  hmacByte key m k := BitVec.ofNat 8 (sumBytes key + sumBytes m + k)
  rngByte i := BitVec.ofNat 8 (c + i)

/-- `exec` under the stub binding. -/
def execStub (c : Nat) (i : Instr) (s : State) : Host.Outcome State Fault Refusal :=
  finish s (commandBody (configWith (stub c)) i s)

/-- Does the outcome give a next state that passes a test? -/
def nextIs (o : Host.Outcome State Fault Refusal) (p : State → Bool) : Bool :=
  match o with
  | .next t => p t
  | .fault _ => false
  | .refused _ => false

def bytes (l : List Nat) : List Byte := l.map (BitVec.ofNat 8)
def words (l : List Nat) : List Word := l.map (BitVec.ofNat 10)

/-- `VAL` and `LEN` loaded on top of the reset state. -/
def withVal (b : List Byte) : State :=
  { State.reset with val := overwrite State.reset.val b, len := BitVec.ofNat 6 b.length }

/-- `W` and `WLEN` loaded. -/
def withW (w : List Word) : State :=
  { State.reset with w := overwrite State.reset.w w, wlen := BitVec.ofNat 6 w.length }

/-- Points loaded into `XS` and `YS`. -/
def withPoints (xs : List Nat) (ys : List (List Nat)) (len : Nat) : State :=
  { State.reset with
    xs := overwrite State.reset.xs (bytes xs), ys := overwriteRows State.reset.ys (ys.map bytes),
    len := BitVec.ofNat 6 len }

/-- Mnemonics loaded into `MN`. -/
def withMn (l : List (List Word)) : State :=
  { State.reset with
    mn := overwriteRows State.reset.mn l,
    mnlen := overwrite State.reset.mnlen (l.map (fun w => BitVec.ofNat 6 w.length)),
    nsh := BitVec.ofNat 9 l.length }

/-- 00..0F. -/
def count16 : List Byte := (List.range 16).map (BitVec.ofNat 8)

/-- The registers of a share. -/
def withShare (h : Share) : State :=
  { withVal h.value with id := h.id, ie := h.ie, gi := h.gi, gt := h.gt, gc := h.gc, mi := h.mi, mt := h.mt }

/-! ## WellFormed: each reserved range of R65 is refused, its neighbours are not -/

theorem test_wf_refuses_0E : Txn.wf hardware (.read 0x000E) = false := by decide
theorem test_wf_refuses_0F : Txn.wf hardware (.write 0x000F 1) = false := by decide
theorem test_wf_refuses_after_w : Txn.wf hardware (.read 0x0081) = false ∧ Txn.wf hardware (.read 0x00FF) = false := by decide
theorem test_wf_refuses_after_pass : Txn.wf hardware (.read 0x0180) = false ∧ Txn.wf hardware (.read 0x01FF) = false := by decide
theorem test_wf_refuses_after_mnlen : Txn.wf hardware (.read 0x0500) = false ∧ Txn.wf hardware (.read 0x1FFF) = false := by decide
theorem test_wf_refuses_row_tail : Txn.wf hardware (.read 0x2021) = false ∧ Txn.wf hardware (.read 0x5FFF) = false := by decide
theorem test_wf_refuses_top : Txn.wf hardware (.write 0x6000 0) = false ∧ Txn.wf hardware (.read 0xFFFF) = false := by decide
theorem test_wf_accepts_edges :
    scriptWf hardware [.read 0x000D, .read 0x0010, .read 0x0080, .read 0x0100, .read 0x017F, .read 0x0200, .read 0x04FF,
      .read 0x2000, .read 0x2020, .read 0x5FE0] = true := by decide
theorem test_wf_script : scriptWf hardware [.read 0x0001, .read 0x6000] = false := by decide
/-- Another capacity of the passphrase buffer (R10) moves the reserved range. -/
theorem test_other_capacity :
    let small : Config := { hardware with passMax := 64 }
    let large : Config := { hardware with passMax := 255 }
    Txn.wf small (.read 0x0140) = false ∧ Txn.wf large (.read 0x01FE) = true ∧ locate small 0x013F = some (.pass 63) ∧
      locate large 0x01FF = none := by decide
theorem test_wf_commands : (Instr.split 0 0).wf = true ∧ (Instr.srecover 255).wf = true := by decide

/-! ## Decode: words written out from R90 and R92 -/

theorem test_decode_nop : decode 0x00000000 = .ok .nop := by decide
theorem test_decode_clr : decode 0x00000001 = .ok .clr := by decide
theorem test_decode_gfmul : decode 0x00835710 = .ok (.gfmul 0x57 0x83) := by decide
theorem test_decode_wenc : decode 0x00000020 = .ok .wenc := by decide
theorem test_decode_wdec : decode 0x00000021 = .ok .wdec := by decide
theorem test_decode_rspoly : decode 0x00000030 = .ok .rspoly := by decide
theorem test_decode_rscreate : decode 0x00000031 = .ok .rscreate := by decide
theorem test_decode_rsverify : decode 0x00000032 = .ok .rsverify := by decide
theorem test_decode_interp : decode 0x0003FF40 = .ok (.interp 255 3) := by decide
theorem test_decode_split : decode 0x00030541 = .ok (.split 5 3) := by decide
theorem test_decode_srecover : decode 0x00030042 = .ok (.srecover 3) := by decide
theorem test_decode_fenc : decode 0x00000050 = .ok .fenc := by decide
theorem test_decode_fdec : decode 0x00000051 = .ok .fdec := by decide
theorem test_decode_shenc : decode 0x00000060 = .ok .shenc := by decide
theorem test_decode_shdec : decode 0x00000061 = .ok .shdec := by decide
theorem test_decode_check1 : decode 0x00000062 = .ok .check1 := by decide
theorem test_decode_generate : decode 0x00000070 = .ok .generate := by decide
theorem test_decode_recover : decode 0x00000071 = .ok .recover := by decide

theorem test_decode_reserved_bits : decode 0x01835710 = .error .reservedBits := by decide
theorem test_decode_unassigned : decode 0x000000FF = .error .unassignedOpcode ∧
    decode 0x00000011 = .error .unassignedOpcode := by decide
theorem test_decode_unused_a : decode 0x00000100 = .error .unusedA ∧ decode 0x00020142 = .error .unusedA ∧
    decode 0x00000170 = .error .unusedA := by decide
theorem test_decode_unused_b : decode 0x00010020 = .error .unusedB := by decide

theorem test_encode : encode (.gfmul 0x57 0x83) = 0x00835710 ∧ encode (.srecover 3) = 0x00030042 ∧
    encode .recover = 0x00000071 := by decide

theorem test_table_word : decodeTableWord 32 0x00030541 = some (.split 5 3) ∧ decodeTableWord 32 0x11 = none := by
  decide

/-- R95 and spec/opcode_table.json: no two rows have a word in common. -/
theorem test_rows_disjoint :
    opcodeRows.Pairwise (fun r q => r.pattern &&& (r.mask &&& q.mask) ≠ q.pattern &&& (r.mask &&& q.mask)) := by decide

/-! ## The host interface (95_test_vectors.md section 2.8) -/

theorem test_write_id_truncates :
    nextIs (step { State.reset with script := [.write 0x0003 0x12345] }) (fun t => t.id == 0x2345) = true := by
  decide +kernel
theorem test_write_w_truncates :
    nextIs (step { State.reset with script := [.write 0x0060 0x7FF] }) (fun t => t.w[0] == 0x3FF) = true := by
  decide +kernel
theorem test_write_status_ignored :
    nextIs (step { State.reset with script := [.write 0x0001 0xFFFFFFFF] }) (fun t => t.status == 0) = true := by
  decide +kernel
theorem test_read_cmd_is_zero :
    nextIs (step { State.reset with script := [.read 0x0000] }) (fun t => t.replies == [0]) = true := by
  decide +kernel
theorem test_illegal_word :
    nextIs (step { State.reset with res := 0xC1, script := [.write 0x0000 0x01835710] })
      (fun t => t.status == 0x00000D73 && t.res == 0xC1) = true := by decide +kernel
/-- The word placed by `withFetchWord` is the first command after reset. -/
theorem test_first_command :
    nextIs (step (State.reset.withFetchWord 32 0x00835710)) (fun t => t.res == 0xC1 && t.status == 1) = true := by
  decide +kernel

/-! ## One step per command -/

theorem test_nop : nextIs (exec .nop { State.reset with res := 0x1B, status := 0xC13 })
    (fun t => t.status == 1 && t.res == 0x1B) = true := by decide +kernel
theorem test_clr : nextIs (exec .clr { withVal count16 with res := 7, id := 9 })
    (fun t => t.status == 1 && t.res == 0 && t.len == 0 && t.val[15] == 0 && t.id == 0) = true := by decide +kernel
theorem test_gfmul_reduces : nextIs (exec (.gfmul 0x02 0x80) State.reset) (fun t => t.res == 0x1B) = true := by
  decide +kernel
theorem test_gfmul_largest_log_sum : nextIs (exec (.gfmul 0xF6 0xF6) State.reset) (fun t => t.res == 0x52) = true := by
  decide +kernel
theorem test_wenc : nextIs (exec .wenc (withVal (bytes [0xDE, 0xAD, 0xBE, 0xEF])))
    (fun t => t.words == words [3, 490, 879, 751]) = true := by decide +kernel
theorem test_wenc_whole_words : nextIs (exec .wenc (withVal (bytes [1, 2, 3, 4, 5])))
    (fun t => t.words == words [4, 32, 193, 5]) = true := by decide +kernel
theorem test_wdec_drops_zero_byte : nextIs (exec .wdec (withW (words [0, 32, 193, 5])))
    (fun t => t.value == bytes [2, 3, 4, 5] && t.status == 1) = true := by decide +kernel
theorem test_wdec_padding : nextIs (exec .wdec (withW (words [4, 32, 193, 5])))
    (fun t => t.status == 0x00000233 && t.len == 0) = true := by decide +kernel
theorem test_rspoly_empty : nextIs (exec .rspoly State.reset) (fun t => t.res == 0x244A8EE3) = true := by decide +kernel
theorem test_rspoly : nextIs (exec .rspoly (withW (words [1, 2, 3, 4, 613, 87, 708])))
    (fun t => t.res == 0x00000201) = true := by decide +kernel
theorem test_rscreate : nextIs (exec .rscreate (withW (words [1, 2, 3, 4, 9, 9, 9])))
    (fun t => t.words == words [1, 2, 3, 4, 613, 87, 196]) = true := by decide +kernel
theorem test_rscreate_short : nextIs (exec .rscreate (withW (words [1, 2]))) (fun t => t.status == 0x00000C13) = true := by
  decide +kernel
theorem test_rsverify_good : nextIs (exec .rsverify (withW (words [1, 2, 3, 4, 613, 87, 196])))
    (fun t => t.res == 1 && t.status == 1) = true := by decide +kernel
theorem test_rsverify_bad : nextIs (exec .rsverify (withW (words [1, 3, 3, 4, 613, 87, 196])))
    (fun t => t.res == 0 && t.status == 1) = true := by decide +kernel
theorem test_interp : nextIs (exec (.interp 1 3) (withPoints [0, 0xFE, 0xFF] [[0x11, 0x22], [0x33, 0], [0x55, 0x66]] 2))
    (fun t => t.value == bytes [0x77, 0x44]) = true := by decide +kernel
theorem test_interp_equal_x : nextIs (exec (.interp 0 2) (withPoints [1, 1] [] 2))
    (fun t => t.status == 0x00000C13) = true := by decide +kernel
theorem test_split : nextIs (execStub 0x40 (.split 5 3) (withVal count16))
    (fun t => t.ys[4].toList.take 16 == bytesBe 0x9D9C18199190939288898A8B99989B9A 16 && t.xs[4] == 4
      && t.rngDrawn == 28) = true := by decide +kernel
theorem test_split_copies : nextIs (exec (.split 4 1) (withVal count16))
    (fun t => t.ys[3].toList.take 16 == count16 && t.rngDrawn == 0) = true := by decide +kernel
theorem test_srecover : nextIs (execStub 0x40 (.srecover 3) (withPoints [4, 0, 2]
    (([0x9D9C18199190939288898A8B99989B9A, 0x404142434445464748494A4B4C4D4E4F, 0xB9B8F1F020212223B8B9BABB28292A2B] :
      List Nat).map (fun n => (bytesBe n 16).map BitVec.toNat)) 16))
    (fun t => t.value == count16 && t.status == 1) = true := by decide +kernel
theorem test_srecover_mismatch : nextIs (execStub 0x40 (.srecover 2) (withPoints [1, 3]
    (([0x3A3B3C3D101112131415161718191A1B, 0xC3C28F8E74757677E4E5E6E77C7D7E7F] :
      List Nat).map (fun n => (bytesBe n 16).map BitVec.toNat)) 16))
    (fun t => t.val[1] == 0 && t.status == 0x00000753) = true := by decide +kernel
theorem test_fenc : nextIs (execStub 0 .fenc
    { withVal count16 with
      id := 0x7FFF, ie := 31, plen := 2, pass := overwrite State.reset.pass [0x41, 0x42] })
    (fun t => t.value == bytesBe 0xFAFBF4F5FEFFF8F9565B585D5A5F5C51 16) = true := by decide +kernel
/-- Another capacity moves the check of `PLEN`. -/
theorem test_fenc_capacity :
    let s : State := { withVal count16 with plen := 129 }
    nextIs (finish s (fencBody { hardware with passMax := 255 } s)) (fun t => t.status == 1) = true ∧
      nextIs (exec .fenc s) (fun t => t.status == 0x00000C13) = true := by decide +kernel
theorem test_fenc_odd : nextIs (exec .fenc { withVal count16 with len := 17 }) (fun t => t.status == 0x00000A13) = true := by
  decide +kernel
theorem test_fdec : nextIs (execStub 0 .fdec { withVal (bytesBe 0xCA3734494E4B484D3A3B3C3D3E3F2021 16) with id := 0x1234 })
    (fun t => t.value == count16) = true := by decide +kernel
theorem test_fdec_wrong_passphrase : nextIs (execStub 0 .fdec
    { withVal (bytesBe 0xCA3734494E4B484D3A3B3C3D3E3F2021 16) with
      id := 0x1234, plen := 1, pass := overwrite State.reset.pass [0x78] })
    (fun t => t.value == bytesBe 0x3031323334352627E8191A6B6C6D6E6F 16 && t.status == 1) = true := by decide +kernel

/-- The first row of section 2.6. -/
def share1 : Share := ⟨0x1234, 0, 0, 1, 1, 0, 3, count16⟩

/-- Its mnemonic. -/
def mnemonic1 : List Word :=
  words [145, 640, 0, 2, 0, 4, 32, 193, 5, 24, 112, 514, 266, 44, 192, 835, 527, 2, 532, 240]

/-- The third row of section 2.6: every field at its largest. -/
def shareMax : Share := ⟨0x7FFF, 31, 15, 16, 16, 15, 16, List.replicate 32 0xFF⟩

theorem test_shenc : nextIs (exec .shenc (withShare share1)) (fun t => t.words == mnemonic1 && t.wlen == 20) = true := by
  decide +kernel
theorem test_shenc_largest : nextIs (exec .shenc (withShare shareMax))
    (fun t => t.words == words ([1023, 1023, 1023, 1023, 63] ++ List.replicate 25 1023 ++ [627, 954, 48])) = true := by
  decide +kernel
theorem test_shdec : nextIs (exec .shdec (withW mnemonic1))
    (fun t => t.shareRecord == share1 && t.status == 1) = true := by decide +kernel
theorem test_shdec_padding : nextIs (exec .shdec (withW (rsCreate hardware (words
      [722, 839, 197, 147, 516, 17, 72, 305, 261, 278, 92, 385, 582, 539, 112, 465, 903, 800, 132, 546, 201, 37, 152, 626, 522,
        298, 172, 706, 843, 559, 0, 0, 0]))))
    (fun t => t.status == 0x00000233 && t.id == 0) = true := by decide +kernel
theorem test_check1 : nextIs (exec .check1 (withW mnemonic1))
    (fun t => t.mt == 3 && t.id == 0x1234 && t.gt == 0 && t.len == 0 && t.status == 1) = true := by decide +kernel
theorem test_check1_checksum : nextIs (exec .check1 (withW (mnemonic1.set 5 5)))
    (fun t => t.status == 0x00000123 && t.mt == 0) = true := by decide +kernel

/-- Scenario A of section 2.7. -/
def scenarioA : State :=
  { withVal count16 with
    id := 0x1234, gt := 1, gc := 1,
    grpcnt := State.reset.grpcnt.set 0 5, grpthr := State.reset.grpthr.set 0 3 }

/-- Its mnemonics 0, 1 and 4. -/
def shares3 : List (List Word) :=
  [words [145, 640, 0, 2, 64, 261, 36, 209, 69, 281, 116, 530, 330, 301, 196, 851, 591, 413, 728, 983],
    words [145, 640, 0, 18, 208, 180, 677, 470, 607, 369, 402, 393, 800, 132, 674, 717, 53, 828, 499, 361],
    words [145, 640, 0, 66, 11, 150, 535, 1000, 808, 174, 526, 1019, 615, 411, 1007, 985, 870, 809, 933, 46]]

theorem test_generate : nextIs (execStub 0x40 .generate scenarioA)
    (fun t => t.mn[1].toList.take 20 == shares3.getD 1 [] && t.mnlen[4] == 20 && t.nsh == 5 && t.status == 1) = true := by
  decide +kernel
theorem test_generate_order : nextIs (exec .generate { scenarioA with gt := 0, len := 15 })
    (fun t => t.status == 0x00000313 && t.nsh == 0) = true := by decide +kernel
theorem test_recover : nextIs (execStub 0x40 .recover (withMn shares3))
    (fun t => t.value == count16 && t.len == 16 && t.status == 1) = true := by decide +kernel
theorem test_recover_two_of_three : nextIs (execStub 0x40 .recover (withMn (shares3.take 2)))
    (fun t => t.len == 0 && t.status == 0x00000563) = true := by decide +kernel

/-! ## Host scripts (R111; programs P1 and P2) -/

theorem test_ldb_xs : assemble (ldbXs [1, 2]) = [.write 0x0010 1, .write 0x0011 2] := by decide
theorem test_share_lines : assemble (shareLines 0x1234 0 0 1 1 0 3) =
    [.write 3 0x1234, .write 4 0, .write 5 0, .write 6 1, .write 7 1, .write 8 0, .write 9 3] := by decide

/-- R112: the last write of the recovery script is its command, the reads of `LEN` and the 32 cells of `VAL` follow. -/
theorem test_recover_script :
    let s := assemble (recoverScript [] [])
    s.take 5 = [.write 0x000D 0, .write 0x000C 0, .write 0x0000 0x71, .read 0x000A, .read 0x0040] ∧
      s.length = 36 ∧ s.getLast? = some (.read 0x005F) := by decide +kernel

/-- R112: after `GENERATE` the script reads `NSH`, then `MNLEN`, then `MN`. -/
theorem test_generate_script :
    let s := (assemble (generateScript [] 0 0x1234 [] 1 [(5, 3)])).drop 8
    s.take 3 = [.write 0x0000 0x70, .read 0x000D, .read 0x0400] ∧ s[257]? = some (.read 0x04FF) ∧
      s[258]? = some (.read 0x2000) ∧ s.getLast? = some (.read 0x5FE0) := by decide +kernel

/-! ## Witnesses

For each statement of Certificates/Slice0/Obligations.lean with hypotheses: a concrete state and operands that meet them, at
the ends of each clause's range. -/

/-- The first disjunction of R94, as `IllegalWordsExactly` writes it. -/
abbrev illegal (n : Nat) : Prop :=
  n / 16777216 ≠ 0 ∨
    n % 256 ∉ [0x00, 0x01, 0x10, 0x20, 0x21, 0x30, 0x31, 0x32, 0x40, 0x41, 0x42, 0x50, 0x51, 0x60, 0x61, 0x62, 0x70, 0x71] ∨
    (n % 256 ∉ [0x10, 0x40, 0x41] ∧ n / 256 % 256 ≠ 0) ∨
    (n % 256 ∉ [0x10, 0x40, 0x41, 0x42] ∧ n / 65536 % 256 ≠ 0)

def withLen (n : Nat) : State := { State.reset with len := BitVec.ofNat 6 n }
def withWlen (n : Nat) : State := { State.reset with wlen := BitVec.ofNat 6 n }
def withScript (l : List Txn) : State := { State.reset with script := l }

/-- `XS[i]` = i, so the x values in use are different. -/
def countXs (len : Nat) : State := withPoints (List.range 16) [] len

/-- One group of one member over a value of `n` zero bytes. -/
def oneOfOne (n : Nat) : State :=
  { withLen n with gt := 1, gc := 1, grpcnt := State.reset.grpcnt.set 0 1, grpthr := State.reset.grpthr.set 0 1 }

/-- Sixteen groups of sixteen members, every threshold at its largest, the passphrase at full length. -/
def full (n : Nat) : State :=
  { withLen n with gt := 16, gc := 16, grpcnt := Vector.replicate 16 16, grpthr := Vector.replicate 16 16, plen := 128 }

/-- A share that recovers alone. -/
def alone : Share := ⟨0x1234, 0, 0, 1, 1, 0, 1, count16⟩

theorem witness_MaskMatchTableDecides :
    decode 0x00030042 = .ok (.srecover 3) ∧ ∃ r ∈ opcodeRows, r.matches 0x00030042 = true := by decide

theorem witness_IllegalWordsExactly :
    illegal 0x01000000 ∧ illegal 0x00000002 ∧ illegal 0x00000142 ∧ illegal 0x00010050 ∧ ¬ illegal 0x00FF0042 ∧
      ¬ illegal 0x00FFFF10 :=
  ⟨by decide, by decide, by decide, by decide, by decide, by decide⟩

theorem witness_StepRunsDecodedCommand :
    (withScript [.write 0x0000 0x71, .read 0x0001]).script = .write 0x0000 0x71 :: [.read 0x0001] ∧
      decode 0x71 = .ok .recover := ⟨rfl, by decide⟩

theorem witness_AddressMapIsOneToOne :
    (Loc.pass 127).mapped hardware = true ∧ (Loc.mn 255 32).mapped hardware = true ∧
      locate hardware 0x017F = some (.pass 127) ∧ locate hardware 0x5FE0 = some (.mn 255 32) := by decide

theorem witness_ReservedAddressesAreRefused :
    reservedAddr hardware 0x000E = true ∧ reservedAddr hardware 0x0081 = true ∧ reservedAddr hardware 0x0180 = true ∧ reservedAddr hardware 0x0500 = true ∧
      reservedAddr hardware 0x2021 = true ∧ reservedAddr hardware 0xFFFF = true ∧
      (withScript [.read 0x000E]).script = .read 0x000E :: [] ∧
      (withScript [.write 0xFFFF 1]).script = .write 0xFFFF 1 :: [] := by decide

theorem witness_ReadsReturnTheCell :
    (Loc.mn 255 32).mapped hardware = true ∧ (withScript [.read 0x5FE0]).script = .read (Loc.mn 255 32).addr :: [] := by decide

theorem witness_WritesStoreLowBits :
    (withScript [.write 0x000D 0xFFFFFFFF]).script = .write Loc.nsh.addr 0xFFFFFFFF :: [] ∧ Loc.nsh.readWrite = true ∧
      Loc.nsh.mapped hardware = true ∧ Loc.res.mapped hardware = true ∧ Loc.cmd.mapped hardware = true ∧
      (withScript [.write 0x0002 5]).script = .write Loc.res.addr 5 :: [] ∧
      (withScript [.write 0x0000 5]).script = .write Loc.cmd.addr 5 :: [] := by decide

/-- A state with a result of 30 ones, and the host about to run `NOP`. -/
def busy : State := { withScript [.write 0x0000 0] with status := 1, res := 0x3FFFFFFF }

theorem witness_StepKeepsInvariant : Inv busy ∧ ∃ t, step busy = .next t :=
  ⟨⟨by decide, by decide, by decide, by decide +kernel⟩, ⟨_, rfl⟩⟩

theorem witness_OnlyCommandsWriteStatusAndRes :
    (∃ t, step (withScript [.read 0x0001]) = .next t) ∧
      ∀ v rest, (withScript [.read 0x0001]).script ≠ .write 0x0000 v :: rest :=
  ⟨⟨_, rfl⟩, by simp [withScript]⟩

theorem witness_DoneIsSetAndStays :
    (∃ t, step busy = .next t) ∧ busy.done = true ∧ busy.script = .write 0x0000 0 :: [] := ⟨⟨_, rfl⟩, by decide, rfl⟩

theorem witness_SafeScriptsNeverStop : safeScript (withScript [.write 0x0000 0x70, .read 0x5FE0]) := by
  unfold safeScript; decide

theorem witness_StopsOnlyAtReservedAddresses :
    step (withScript [.read 0x6000]) = .refused (.reservedAddress 0x6000) := rfl

theorem witness_CommandsWriteOnlyTheirLocations :
    (∃ t, exec .wenc (withLen 16) = .next t) ∧ (∀ c k, Instr.wenc ≠ .split c k) ∧ Instr.wenc ≠ .generate :=
  ⟨⟨_, rfl⟩, by simp, by decide⟩

/-- The machine's parameters with a number put for `LOG[0]` and `EXP[255]`. -/
def filled (x : Byte) : Config :=
  { hardware with log := fun a => if a = 0 then x else logTable a, exp := fun i => if i = 255 then x else expTable i }

theorem witness_UnreadTableEntriesDoNotMatter :
    AgreeOffUnread (filled 1) (filled 2) ∧ (filled 1).log 0 ≠ (filled 2).log 0 :=
  ⟨⟨fun _ h => (if_neg h).trans (if_neg h).symm, fun _ h => (if_neg h).trans (if_neg h).symm, rfl, rfl, rfl, rfl⟩, by decide⟩

theorem witness_WencPacksTheInteger :
    (1 ≤ (withLen 1).len.toNat ∧ (withLen 32).len.toNat ≤ 32) ∧ (withLen 1).len.toNat ≤ 32 ∧ 1 ≤ (withLen 32).len.toNat ∧
      ¬ 1 ≤ (withLen 0).len.toNat ∧ ¬ (withLen 33).len.toNat ≤ 32 := by decide

theorem witness_WdecUnpacksTheInteger :
    ((withW (words [255])).wlen = 1 ∧ wordsBe (withW (words [255])).words < 2 ^ 8) ∧
      ((withW (words [256])).wlen = 1 ∧ 2 ^ 8 ≤ wordsBe (withW (words [256])).words) ∧
      ((withWlen 26).wlen = 26 ∧ wordsBe (withWlen 26).words < 2 ^ 256) ∧
      ¬ 1 ≤ (withWlen 0).wlen.toNat ∧ ¬ (withWlen 27).wlen.toNat ≤ 26 := by decide +kernel

theorem witness_RspolyResult :
    (withWlen 0).wlen.toNat ≤ 33 ∧ (withWlen 33).wlen.toNat ≤ 33 ∧ 33 < (withWlen 34).wlen.toNat := by decide

theorem witness_CreatedChecksumVerifies : 3 ≤ (words [0, 0, 0]).length := by decide

theorem witness_PolymodIsAffine : (words [1, 2]).length = (words [1023, 0]).length := by decide

theorem witness_SingleBitFlipIsDetected : rsVerify hardware (words [413, 424, 113]) = true := by decide +kernel

theorem witness_RscreateThenRsverifyGivesOne :
    3 ≤ (withWlen 3).wlen.toNat ∧ (withWlen 3).wlen.toNat ≤ 33 ∧ 3 ≤ (withWlen 33).wlen.toNat ∧
      (withWlen 33).wlen.toNat ≤ 33 := by decide

theorem witness_RsverifyReportsInRes :
    (3 ≤ (withWlen 3).wlen.toNat ∧ (withWlen 3).wlen.toNat ≤ 33) ∧ (withWlen 33).wlen.toNat = 33 ∧
      ¬ 3 ≤ (withWlen 2).wlen.toNat ∧ ¬ (withWlen 34).wlen.toNat ≤ 33 := by decide

/-- Three points, as in section 2.4. -/
def points3 : List (Byte × List Byte) := [(0x00, [0x11, 0x22]), (0xFE, [0x33, 0x00]), (0xFF, [0x55, 0x66])]

theorem witness_InterpolationIsLagrange :
    (points3.map Prod.fst).Nodup ∧ ∀ pt ∈ points3, pt.2.length = 2 := by decide

theorem witness_InterpEvaluatesThePolynomial :
    ((countXs 1).len.toNat = 1 ∧ ∀ i j : Fin 16, i < j → j.val < 16 → (countXs 1).xs[i] ≠ (countXs 1).xs[j]) ∧
      ((countXs 32).len.toNat = 32 ∧ ∀ i j : Fin 16, i < j → j.val < 1 → (countXs 32).xs[i] ≠ (countXs 32).xs[j]) ∧
      (¬ 1 ≤ (0 : Byte).toNat ∧ ¬ (17 : Byte).toNat ≤ 16) ∧ ¬ (countXs 33).len.toNat ≤ 32 ∧
      ∃ i j : Fin 16, i < j ∧ j.val < 2 ∧ (withLen 2).xs[i] = (withLen 2).xs[j] := by decide +kernel

theorem witness_LanesAreIndependent :
    1 < 2 ∧ points3.map Prod.fst = (points3.map (fun p => (p.1, p.2.set 0 7))).map Prod.fst ∧
      (∀ pt ∈ points3.map (fun p => (p.1, p.2.set 0 7)), pt.2.length = 2) ∧
      points3.map (fun pt => pt.2[1]?) = (points3.map (fun p => (p.1, p.2.set 0 7))).map (fun pt => pt.2[1]?) := by
  decide

theorem witness_SplitWritesTheShares :
    (1 ≤ (1 : Byte).toNat ∧ (1 : Byte).toNat ≤ (1 : Byte).toNat ∧ (16 : Byte).toNat ≤ 16) ∧
      (¬ 1 ≤ (0 : Byte).toNat ∧ ¬ (3 : Byte).toNat ≤ (2 : Byte).toNat ∧ ¬ (17 : Byte).toNat ≤ 16) ∧
      ((withLen 16).len.toNat = 16 ∧ (withLen 32).len.toNat = 32) ∧
      ¬ 16 ≤ (withLen 15).len.toNat ∧ ¬ (withLen 33).len.toNat ≤ 32 := by decide

theorem witness_SharesLieOnThePolynomial :
    (1 ≤ 1 ∧ 1 ≤ 1 ∧ 1 ≤ 16 ∧ 16 ≤ count16.length ∧ count16.length ≤ 32) ∧
      (2 ≤ 16 ∧ 16 ≤ 16 ∧ 16 ≤ (List.replicate 32 (0 : Byte)).length ∧ (List.replicate 32 (0 : Byte)).length ≤ 32) := by
  decide

theorem witness_AnyThresholdSharesRecover :
    ([15, 3, 0].Nodup ∧ (∀ x ∈ [15, 3, 0], x < 16) ∧ 2 ≤ [15, 3, 0].length) ∧
      ((List.range 16).Nodup ∧ (∀ x ∈ List.range 16, x < 16) ∧ 16 ≤ (List.range 16).length) ∧
      16 ≤ count16.length ∧ count16.length ≤ 32 := by decide

theorem witness_SplitThenSrecoverRestores :
    1 ≤ (16 : Byte).toNat ∧ (16 : Byte).toNat ≤ 16 ∧ (withLen 16).len.toNat = 16 ∧ (withLen 32).len.toNat = 32 := by decide

theorem witness_SrecoverChecksTheDigest :
    (1 ≤ (1 : Byte).toNat ∧ (16 : Byte).toNat ≤ 16) ∧ (countXs 16).len.toNat = 16 ∧ (countXs 32).len.toNat = 32 ∧
      (∀ i j : Fin 16, i < j → j.val < 16 → (countXs 16).xs[i] ≠ (countXs 16).xs[j]) ∧
      (∀ i j : Fin 16, i < j → j.val < 16 → (countXs 32).xs[i] ≠ (countXs 32).xs[j]) := by decide +kernel

/-- The first byte the `HMAC` port answers to zeros. -/
def firstByte : Byte := hardware.ports.hmacByte (List.replicate 12 0) (List.replicate 16 0) 0

/-- The points 254 and 255 themselves, with a digest share whose first byte is wrong. -/
def wrongDigest : State :=
  { withPoints [254, 255] [] 16 with ys := overwriteRows State.reset.ys [[firstByte + 1]] }

set_option maxRecDepth 20000 in
theorem witness_SrecoverChecksTheDigest_mismatch :
    let dig := lagrangeValue (wrongDigest.points 2) 254 16
    (wrongDigest.xs[0] ≠ wrongDigest.xs[1] ∧ wrongDigest.len = 16) ∧
      (hmac hardware (dig.drop 4) (lagrangeValue (wrongDigest.points 2) 255 16)).take 4 ≠ dig.take 4 := by
  have hd : (lagrangeValue (wrongDigest.points 2) 254 16).drop 4 = List.replicate 12 0 := by decide +kernel
  have hs : lagrangeValue (wrongDigest.points 2) 255 16 = List.replicate 16 0 := by decide +kernel
  have h0 : ((lagrangeValue (wrongDigest.points 2) 254 16).take 4)[0]? = some (0 ^^^ (0 ^^^ (firstByte + 1)) ^^^ 0) := by
    rfl
  refine ⟨by decide +kernel, fun h => ?_⟩
  rw [hd, hs] at h
  have h1 := congrArg (fun l => l[0]?) h
  simp only [h0] at h1
  have h2 : some firstByte = some (0 ^^^ (0 ^^^ (firstByte + 1)) ^^^ 0) := h1
  simp at h2
theorem witness_SrecoverOperandChecks :
    (¬ 1 ≤ (0 : Byte).toNat ∧ ¬ (17 : Byte).toNat ≤ 16) ∧
      ((1 ≤ (16 : Byte).toNat ∧ (16 : Byte).toNat ≤ 16) ∧ ¬ 16 ≤ (withLen 15).len.toNat ∧ ¬ (withLen 33).len.toNat ≤ 32) ∧
      (16 ≤ (withLen 16).len.toNat ∧ (withLen 16).len.toNat ≤ 32 ∧
        ∃ i j : Fin 16, i < j ∧ j.val < (2 : Byte).toNat ∧ (withLen 16).xs[i] = (withLen 16).xs[j]) := by decide +kernel

theorem witness_CipherRunsFourRounds :
    (full 16).len.toNat = 16 ∧ (full 32).len.toNat = 32 ∧ (full 32).len.toNat % 2 = 0 ∧ (full 32).plen.toNat ≤ 128 := by
  decide

theorem witness_CipherOperandChecks :
    ¬ 16 ≤ (withLen 14).len.toNat ∧ ¬ (withLen 17).len.toNat % 2 = 0 ∧ ¬ (withLen 34).len.toNat ≤ 32 ∧
      ((full 16).len.toNat = 16 ∧ 128 < ({ full 16 with plen := 129 } : State).plen.toNat) := by decide

theorem witness_DecryptInvertsEncrypt : count16.length % 2 = 0 := by decide

theorem witness_MetadataWordsByFormula : legalShare shareMax ∧ legalShare ⟨0, 0, 0, 1, 1, 0, 1, [0]⟩ := by
  unfold legalShare; decide

theorem witness_ShareCodecRoundTrip :
    (legalShare shareMax ∧ legalShare ⟨0, 0, 0, 3, 2, 0, 1, [0]⟩ ∧ legalShare ⟨0, 0, 0, 1, 1, 0, 1, [9, 0, 0, 0, 0]⟩ ∧
      legalShare ⟨0, 0, 0, 1, 1, 0, 1, [0, 9, 0, 0, 0]⟩) ∧
      8 ≤ mnemonic1.length ∧ shareDecode hardware mnemonic1 = .ok share1 := by unfold legalShare; decide +kernel

theorem witness_ShencEncodesTheRecord :
    let ok := withShare shareMax
    (1 ≤ ok.gt.toNat ∧ ok.gt.toNat ≤ ok.gc.toNat ∧ ok.gc.toNat = 16) ∧ ok.mt.toNat = 16 ∧ ok.len.toNat = 32 ∧
      ¬ (withLen 1).gt.toNat ≥ 1 ∧ ¬ ({ ok with gc := 15 } : State).gt.toNat ≤ 15 ∧
      ¬ ({ ok with gc := 17 } : State).gc.toNat ≤ 16 ∧ ¬ 1 ≤ ({ ok with mt := 0 } : State).mt.toNat ∧
      ¬ ({ ok with mt := 17 } : State).mt.toNat ≤ 16 ∧ ¬ 1 ≤ ({ ok with len := 0 } : State).len.toNat ∧
      ¬ ({ ok with len := 33 } : State).len.toNat ≤ 32 := by decide

theorem witness_ShdecAndCheck1ReadTheShare :
    let odd : Share := ⟨0, 0, 0, 3, 2, 0, 1, [9]⟩
    let five : Share := ⟨0, 0, 0, 1, 1, 0, 1, [9, 0, 0, 0, 0]⟩
    let zero : Share := ⟨0, 0, 0, 1, 1, 0, 1, [0, 9, 0, 0, 0]⟩
    let holds := fun h : Share =>
      (withW (shareEncode hardware h)).wlen.toNat = (shareEncode hardware h).length ∧
        (withW (shareEncode hardware h)).words = shareEncode hardware h
    (legalShare share1 ∧ holds share1) ∧ (legalShare shareMax ∧ holds shareMax) ∧ (legalShare odd ∧ holds odd) ∧
      (legalShare five ∧ holds five) ∧ legalShare zero ∧ holds zero := by unfold legalShare; decide +kernel

/-- The fourth row of section 2.6 with words 2 and 4 replaced, and its checksum made anew. -/
def remade (w2 w4 : Nat) : List Word :=
  rsCreate hardware (words [722, 839, w2, 147, w4, 17, 72, 305, 261, 278, 92, 385, 582, 539, 112, 465, 903, 800, 132, 546, 201, 37,
    152, 626, 522, 298, 172, 706, 843, 559, 0, 0, 0])

theorem test_shdec_threshold_before_padding : nextIs (exec .shdec (withW (remade 213 516)))
    (fun t => t.status == 0x00000313 && t.gt == 0) = true := by decide +kernel

theorem witness_ChecksumComesBeforeTrust :
    (¬ 8 ≤ (withWlen 7).wlen.toNat ∧ ¬ (withWlen 34).wlen.toNat ≤ 33) ∧
      ((withWlen 8).wlen.toNat = 8 ∧ rsVerify hardware (withWlen 8).words = false) ∧
      ((withWlen 33).wlen.toNat = 33 ∧ rsVerify hardware (withWlen 33).words = false) ∧
      (rsVerify hardware (withW (remade 213 516)).words = true ∧
        gcField (withW (remade 213 516)).words < gtField (withW (remade 213 516)).words ∧
        paddingSet (withW (remade 213 516)).words) ∧
      (rsVerify hardware (withW (remade 197 516)).words = true ∧
        gtField (withW (remade 197 516)).words ≤ gcField (withW (remade 197 516)).words ∧
        paddingSet (withW (remade 197 516)).words) ∧
      (rsVerify hardware (withW mnemonic1).words = true ∧
        gtField (withW mnemonic1).words ≤ gcField (withW mnemonic1).words ∧ !paddingSet (withW mnemonic1).words) := by
  decide +kernel

/-- The hypotheses the statements about a valid `GENERATE` share. -/
def validGenerate (s : State) : Prop :=
  (1 ≤ s.gt.toNat ∧ s.gt.toNat ≤ s.gc.toNat ∧ s.gc.toNat ≤ 16) ∧ (16 ≤ s.len.toNat ∧ s.len.toNat ≤ 32) ∧
    s.len.toNat % 2 = 0 ∧ s.plen.toNat ≤ 128 ∧ ∀ g : Fin 16, g.val < s.gc.toNat →
      1 ≤ s.grpthr[g].toNat ∧ s.grpthr[g].toNat ≤ s.grpcnt[g].toNat ∧ s.grpcnt[g].toNat ≤ 16

theorem witness_GenerateValidatesInOrder :
    (¬ 1 ≤ (withLen 15).gt.toNat) ∧
      ((full 15).gt.toNat ≤ (full 15).gc.toNat ∧ (full 15).gc.toNat = 16 ∧ ¬ 16 ≤ (full 15).len.toNat) ∧
      ((full 16).len.toNat = 16 ∧
        ¬ ∀ g : Fin 16, g.val < (full 16).gc.toNat →
          1 ≤ ({ full 16 with grpthr := Vector.replicate 16 17 } : State).grpthr[g].toNat ∧
          ({ full 16 with grpthr := Vector.replicate 16 17 } : State).grpthr[g].toNat ≤ (full 16).grpcnt[g].toNat) ∧
      128 < ({ full 16 with plen := 129 } : State).plen.toNat := by decide +kernel

theorem witness_GenerateWritesEveryMember :
    validGenerate (oneOfOne 16) ∧ validGenerate (full 32) ∧ validGenerate scenarioA ∧
      (0 < scenarioA.gc.toNat ∧ 4 < scenarioA.grpcnt[0].toNat) := by unfold validGenerate; decide +kernel

theorem witness_RecoverChecksItsOperands :
    let s : State := { withMn [mnemonic1] with plen := 128 }
    256 < ({ s with nsh := 257 } : State).nsh.toNat ∧
      (s.nsh = 1 ∧ 128 < ({ s with plen := 129 } : State).plen.toNat) ∧
      (State.reset.nsh = 0 ∧ State.reset.plen.toNat ≤ 128) := by decide +kernel

/-- A row that decodes, then one that does not, for each of the four errors. -/
theorem witness_RecoverChecksItsOperands_rows :
    (∀ j : Fin 256, j < 1 → rowError hardware (withMn [mnemonic1, []]) j = none) ∧
      rowError hardware (withMn [mnemonic1, mnemonic1.take 7]) 1 = some .invalidOperand ∧
      rowError hardware (withMn [mnemonic1, mnemonic1.set 5 5]) 1 = some .invalidMnemonicChecksum ∧
      rowError hardware (withMn [mnemonic1, remade 213 516]) 1 = some .invalidGroupThreshold ∧
      rowError hardware (withMn [mnemonic1, remade 197 516]) 1 = some .invalidPadding := by
  decide +kernel

theorem holdsShares_intro {s : State} {hs : List Share} (h : hs.length ≤ 256 ∧ s.nsh.toNat = hs.length)
    (h' : ∀ m : Fin 256, ∀ a ∈ hs[m.val]?,
      legalShare a ∧ a.gt.toNat ≤ a.gc.toNat ∧ a.value.length % 5 ≠ 0 ∧ holdsMnemonic s m (shareEncode hardware a)) :
    holdsShares s hs := ⟨h.1, h.2, h'⟩

/-- `MN` loaded with the mnemonics of shares. -/
def withShares (hs : List Share) : State := withMn (hs.map (shareEncode hardware))

/-- A second member of the group of a share of threshold 2. -/
def pair0 : Share := ⟨1, 0, 0, 1, 1, 0, 2, 255 :: List.replicate 15 0⟩
def pair1 : Share := ⟨1, 0, 0, 1, 1, 1, 2, 254 :: List.replicate 15 0⟩

theorem witness_RecoverOfTrueShares :
    holdsShares (withShares [pair0, pair1]) [pair0, pair1] ∧ [pair0, pair1].Pairwise compatible ∧ sameFour pair1 pair0 ∧
      (groupOrder [pair0, pair1]).length = 1 ∧ (fullGroups [pair0, pair1]).length = 1 :=
  ⟨holdsShares_intro (by decide +kernel) (by unfold legalShare holdsMnemonic; decide +kernel),
    by unfold compatible; decide, by unfold sameFour; decide, by decide, by decide⟩

/-- One group where two are asked for, and a group that misses its threshold. -/
theorem witness_RecoverOfTrueShares_missed :
    (holdsShares (withShares [shareMax]) [shareMax] ∧ (groupOrder [shareMax]).length < shareMax.gt.toNat) ∧
      (holdsShares (withShares [share1]) [share1] ∧ (groupOrder [share1]).length = share1.gt.toNat ∧
        (fullGroups [share1]).length < share1.gt.toNat) :=
  ⟨⟨holdsShares_intro (by decide +kernel) (by unfold legalShare holdsMnemonic; decide +kernel), by decide⟩,
    holdsShares_intro (by decide +kernel) (by unfold legalShare holdsMnemonic; decide +kernel), by decide, by decide⟩

/-- Two groups of points that differ in the digest only: whatever `HMAC` is, one of them does not agree. -/
theorem witness_RecoverOfTrueShares_mismatch :
    combine hardware 2 [(0, 255 :: List.replicate 15 0), (1, 254 :: List.replicate 15 0)] 16 = none ∨
      combine hardware 2 [(0, List.replicate 16 0), (1, List.replicate 16 0)] 16 = none := by
  have a255 : lagrangeValue [(0, 255 :: List.replicate 15 0), (1, 254 :: List.replicate 15 0)] 255 16 =
      List.replicate 16 0 := by decide +kernel
  have a254 : lagrangeValue [(0, 255 :: List.replicate 15 0), (1, 254 :: List.replicate 15 0)] 254 16 =
      1 :: List.replicate 15 0 := by decide +kernel
  have b255 : lagrangeValue [(0, List.replicate 16 0), (1, List.replicate 16 0)] 255 16 = List.replicate 16 0 := by
    decide +kernel
  have b254 : lagrangeValue [(0, List.replicate 16 0), (1, List.replicate 16 0)] 254 16 = List.replicate 16 0 := by
    decide +kernel
  simp only [combine, a255, a254, b255, b254]
  by_cases h : (hmac hardware (List.replicate 12 0) (List.replicate 16 0)).take 4 = [1, 0, 0, 0]
  · exact .inr (by simpa using fun hz => absurd (h.symm.trans hz) (by decide))
  · exact .inl (by simpa using h)

theorem witness_RecoverRejectsMixedShares :
    (holdsShares (withShares [share1, { share1 with ie := 1 }]) [share1, { share1 with ie := 1 }] ∧
        ¬ sameFour { share1 with ie := 1 } share1) ∧
      holdsShares (withShares [⟨0, 0, 0, 1, 1, 0, 1, [9]⟩]) [⟨0, 0, 0, 1, 1, 0, 1, [9]⟩] ∧
      (holdsShares (withShares [share1, alone]) [share1, alone] ∧ sameFour alone share1 ∧
        [share1].Pairwise compatible ∧ share1.gi = alone.gi ∧ share1.mt ≠ alone.mt) ∧
      (holdsShares (withShares [pair0, pair1, pair0]) [pair0, pair1, pair0] ∧ [pair0, pair1].Pairwise compatible) :=
  ⟨⟨holdsShares_intro (by decide +kernel) (by unfold legalShare holdsMnemonic; decide +kernel),
      by unfold sameFour; decide⟩,
    holdsShares_intro (by decide +kernel) (by unfold legalShare holdsMnemonic; decide +kernel),
    ⟨holdsShares_intro (by decide +kernel) (by unfold legalShare holdsMnemonic; decide +kernel),
      by unfold sameFour; decide, by simp, by decide, by decide⟩,
    holdsShares_intro (by decide +kernel) (by unfold legalShare holdsMnemonic; decide +kernel),
    by unfold compatible; decide⟩

theorem exists_of_nextIs {o : Host.Outcome State Fault Refusal} {p : State → Bool} (h : nextIs o p = true) :
    ∃ t, o = .next t ∧ p t = true := by
  cases o with
  | next t => exact ⟨t, rfl, h⟩
  | fault f => cases f
  | refused r => simp [nextIs] at h

theorem witness_RecoverAcceptsEveryPassphrase :
    ∃ t, exec .recover (withMn [shareEncode hardware alone]) = .next t ∧ (t.status == 0x00000001) = true :=
  exists_of_nextIs (by decide +kernel)

/-- The five rows `scenarioA` generates, all of them. -/
def fiveRows : List (Fin 256) := [0, 1, 2, 3, 4]

theorem fiveRows_getElem? {k m : Fin 256} (h : fiveRows[k.val]? = some m) : m = k := by
  have hk : k.val < 5 := (List.getElem?_eq_some_iff.mp h).1
  have all : ∀ k : Fin 256, k.val < 5 → fiveRows[k.val]? = some k := by decide +kernel
  rw [all k hk] at h
  exact (Option.some.inj h).symm

/-- The state after the generation itself is one to recover from: all rows, in their order. -/
theorem witness_GenerateThenRecoverRestores :
    (validGenerate scenarioA ∧ validGenerate (full 32) ∧ soundLength 16 ∧ soundLength 32) ∧
      ∃ t, exec .generate scenarioA = .next t ∧ fiveRows.Nodup ∧ (∀ m ∈ fiveRows, m.val < t.nsh.toNat) ∧
        scenarioA.gt.toNat ≤ ((List.range scenarioA.gc.toNat).filter (fun _ =>
          decide (3 ≤ (fiveRows.filter (fun m => decide (0 ≤ m.val ∧ m.val < 0 + 5))).length))).length ∧
        t.nsh.toNat = fiveRows.length ∧
        (∀ k m : Fin 256, fiveRows[k.val]? = some m → t.mn[k] = t.mn[m] ∧ t.mnlen[k] = t.mnlen[m]) ∧
        t.pass = scenarioA.pass ∧ t.plen = scenarioA.plen := by
  refine ⟨by unfold validGenerate soundLength; decide +kernel, ?_⟩
  obtain ⟨t, ht, hp⟩ := exists_of_nextIs (o := exec .generate scenarioA)
    (p := fun t => decide (t.nsh = 5 ∧ t.pass = scenarioA.pass ∧ t.plen = scenarioA.plen)) (by decide +kernel)
  obtain ⟨hn, hpass, hplen⟩ := of_decide_eq_true hp
  refine ⟨t, ht, by decide, ?_, by decide +kernel, by rw [hn]; rfl, ?_, hpass, hplen⟩
  · rw [hn]; exact of_decide_eq_true (by decide +kernel)
  · intro k m h
    rw [fiveRows_getElem? h]
    exact ⟨rfl, rfl⟩

theorem witness_LengthTwentyAndThirtyFail :
    ((validGenerate (oneOfOne 20) ∧ (oneOfOne 20).len = 20) ∧ (validGenerate (full 30) ∧ (full 30).len = 30)) ∧
      ∃ t, exec .generate (oneOfOne 20) = .next t ∧ [(0 : Fin 256)] ≠ [] ∧ (∀ m ∈ [(0 : Fin 256)], m.val < t.nsh.toNat) ∧
        t.nsh.toNat = [(0 : Fin 256)].length ∧
        (∀ k m : Fin 256, [(0 : Fin 256)][k.val]? = some m → t.mn[k] = t.mn[m] ∧ t.mnlen[k] = t.mnlen[m]) ∧
        t.plen.toNat ≤ 128 := by
  refine ⟨by unfold validGenerate; decide +kernel, ?_⟩
  obtain ⟨t, ht, hp⟩ := exists_of_nextIs (o := exec .generate (oneOfOne 20))
    (p := fun t => decide (t.nsh = 1 ∧ t.plen = 0)) (by decide +kernel)
  obtain ⟨hn, hl⟩ := of_decide_eq_true hp
  have all : ∀ k m : Fin 256, [(0 : Fin 256)][k.val]? = some m → k = m := by
    intro k m h
    have hk : k.val = 0 := by have := (List.getElem?_eq_some_iff.mp h).1; simp at this; omega
    have hm : m = 0 := by simpa [hk] using h.symm
    exact (Fin.ext (by simp [hk])).trans hm.symm
  refine ⟨t, ht, by simp, by simp [hn], by simp [hn], fun k m h => ?_, by simp [hl]⟩
  rw [all k m h]
  exact ⟨rfl, rfl⟩

end Sys2Proof.Tests
end

section
/-! PROOFS. The address map (20_memory.md R64, R65): the cell number of a location and the address decoder are inverse to
each other, and the decoder answers nothing exactly at the reserved addresses, for every capacity of the passphrase
buffer. -/

namespace Sys2Proof.Machine

/-! ## Cell numbers -/

/-- The passphrase window has 256 addresses (R31). -/
theorem passIndex_lt (k : Fin passWindow) : k.val < 256 := k.isLt

/-- The capacity of the passphrase buffer is at most the window (R31, R64). -/
theorem passMax_le (C : Config) : C.passMax.val ≤ 256 := Nat.le_of_lt_succ C.passMax.isLt

/-- Every location lies below the reserved end of the cell space (R65). -/
theorem addrNat_lt (l : Loc) : l.addrNat < 0x6000 := by
  cases l with
  | pass k =>
    have := passIndex_lt k
    simp only [Loc.addrNat]
    omega
  | _ =>
    simp only [Loc.addrNat]
    omega

@[simp] theorem toNat_addr (l : Loc) : l.addr.toNat = l.addrNat := by
  have := addrNat_lt l
  rw [Loc.addr, BitVec.toNat_ofNat, Nat.mod_eq_of_lt (by omega)]

theorem addr_eq_iff (l : Loc) (a : Addr) : l.addr = a ↔ l.addrNat = a.toNat := by
  rw [← BitVec.toNat_inj, toNat_addr]

theorem mapped_pass_iff (C : Config) (k : Fin passWindow) :
    (Loc.pass k).mapped C = true ↔ k.val < C.passMax.val := by simp [Loc.mapped]

theorem length_scalarLocs : scalarLocs.length = 14 := rfl

/-- The list of the scalar locations is in the order of their addresses (R64). -/
theorem scalarLocs_eq_some {n : Nat} {l : Loc} (C : Config) (h : scalarLocs[n]? = some l) :
    l.mapped C = true ∧ l.addrNat = n := by
  have inOrder : ∀ k : Fin scalarLocs.length, scalarLocs[k].addrNat = k.val := by decide
  have noneMissing : ∀ l ∈ scalarLocs, l.mapped C = true := by simp [scalarLocs, Loc.mapped]
  obtain ⟨hn, rfl⟩ := List.getElem?_eq_some_iff.mp h
  exact ⟨noneMissing _ (List.getElem_mem hn), inOrder ⟨n, hn⟩⟩

/-! ## The address decoder -/

/-- The decoder finds every location that is there at its own address (R64): its address lies in no window but its
own, and there the offset gives back the indices. -/
theorem locate_of_addrNat_eq {C : Config} {a : Addr} {l : Loc} (h : l.mapped C = true) (ha : l.addrNat = a.toNat) :
    locate C a = some l := by
  have hmax := passMax_le C
  cases l with
  | xs i | grpcnt i | grpthr i | val i | w i | mnlen i =>
    simp only [Loc.addrNat] at ha
    simp (disch := omega) only [locate, if_neg, dif_neg, dif_pos, ← ha, Nat.add_sub_cancel_left]
  | pass k =>
    rw [mapped_pass_iff] at h
    simp only [Loc.addrNat] at ha
    simp (disch := omega) only [locate, if_neg, dif_neg, dif_pos, ← ha, Nat.add_sub_cancel_left]
  | ys i k | mn i k =>
    simp only [Loc.addrNat] at ha
    simp (disch := omega) only [locate, if_neg, dif_neg, dif_pos, Option.some.injEq, Loc.ys.injEq, Loc.mn.injEq,
      Fin.ext_iff]
    omega
  | _ =>
    obtain rfl := (addr_eq_iff _ a).mpr ha
    rfl

/-- What the decoder answers is a location that is there, and its cell number is the address asked for (R64). -/
theorem locate_eq_some {C : Config} {a : Addr} {l : Loc} (h : locate C a = some l) :
    l.mapped C = true ∧ l.addrNat = a.toNat := by
  simp only [locate, ite_eq_iff, dite_eq_iff, reduceCtorEq, exists_false, or_false, Option.some.injEq] at h
  rcases h with ⟨-, h⟩ | ⟨-, h⟩
  · exact scalarLocs_eq_some C h
  · rcases h with ⟨window, rfl⟩ | ⟨-, ⟨window, rfl⟩ | ⟨-, ⟨window, rfl⟩ | ⟨-, ⟨window, rfl⟩ | ⟨-, ⟨window, rfl⟩ |
      ⟨-, ⟨window, rfl⟩ | ⟨-, ⟨window, rfl⟩ | ⟨-, ⟨window, rfl⟩ | ⟨-, ⟨window, rfl⟩⟩⟩⟩⟩⟩⟩⟩⟩
    all_goals
      simp only [Loc.mapped, Loc.addrNat, decide_eq_true_eq, true_and]
      omega

/-! ## Reserved addresses -/

theorem reservedAddr_iff (C : Config) (a : Addr) : reservedAddr C a = true ↔
    a.toNat = 0x000E ∨ a.toNat = 0x000F ∨ (0x0081 ≤ a.toNat ∧ a.toNat ≤ 0x00FF) ∨
      (0x0100 + C.passMax.val ≤ a.toNat ∧ a.toNat ≤ 0x01FF) ∨ (0x0500 ≤ a.toNat ∧ a.toNat ≤ 0x1FFF) ∨
      (0x2000 ≤ a.toNat ∧ a.toNat ≤ 0x5FFF ∧ 33 ≤ (a.toNat - 0x2000) % 64) ∨ 0x6000 ≤ a.toNat := by
  simp [reservedAddr, or_assoc, and_assoc]

/-- No location that is there has a reserved address (R65). -/
theorem not_reservedAddr_addr {C : Config} {l : Loc} (h : l.mapped C = true) : ¬ reservedAddr C l.addr = true := by
  rw [reservedAddr_iff, toNat_addr]
  cases l with
  | pass k =>
    rw [mapped_pass_iff] at h
    have := passIndex_lt k
    simp only [Loc.addrNat]
    omega
  | _ =>
    simp only [Loc.addrNat]
    omega

/-- An address in none of the windows of the decoder is in R65's list: its ranges are the gaps between them. -/
theorem reservedAddr_of_locate_eq_none {C : Config} {a : Addr} (h : locate C a = none) : reservedAddr C a = true := by
  rw [reservedAddr_iff]
  simp only [locate, ite_eq_iff, dite_eq_iff, reduceCtorEq, exists_false, false_or, exists_prop, and_true,
    List.getElem?_eq_none_iff, length_scalarLocs] at h
  omega

theorem locate_eq_none_iff (C : Config) (a : Addr) : locate C a = none ↔ reservedAddr C a = true := by
  refine ⟨reservedAddr_of_locate_eq_none, fun hr => Option.eq_none_iff_forall_ne_some.mpr fun l hl => ?_⟩
  obtain ⟨hm, ha⟩ := locate_eq_some hl
  exact not_reservedAddr_addr hm ((addr_eq_iff l a).mpr ha ▸ hr)

/-! ## The statements -/

/-- Settles O7: `locate_of_addrNat_eq` one way, `locate_eq_some` the other. -/
theorem addressMapIsOneToOne : Obligations.AddressMapIsOneToOne := by
  refine fun C => ⟨fun l h => locate_of_addrNat_eq h (toNat_addr l).symm, fun a l h => ?_⟩
  obtain ⟨hm, ha⟩ := locate_eq_some h
  exact ⟨hm, (addr_eq_iff l a).mpr ha⟩

/-- Settles O8: the decoder answers nothing exactly at the reserved addresses, and the transaction at the head of the
script is refused where it answers nothing. -/
theorem reservedAddressesAreRefused : Obligations.ReservedAddressesAreRefused := by
  refine ⟨locate_eq_none_iff, fun a ha s rest v => ?_⟩
  have unmapped : locate hardware a = none := (locate_eq_none_iff hardware a).mpr ha
  exact ⟨fun hs => (step_cons hs).trans (readTxn_none unmapped),
    fun hs => (step_cons hs).trans (writeTxn_none unmapped)⟩

end Sys2Proof.Machine
end

section
/-! PROOFS. The command word (30_encoding.md R90 to R93): its four fields, and that the decoder gives back the command
that was encoded. -/

namespace Sys2Proof

theorem aField_commandWord (o a b : Byte) : aField (commandWord o a b) = a := by
  apply BitVec.eq_of_getLsbD_eq
  intro i hi
  simp only [aField, commandWord, BitVec.getLsbD_extractLsb', BitVec.getLsbD_or, BitVec.getLsbD_shiftLeft,
    BitVec.getLsbD_setWidth]
  have belowB : 8 + i < 16 := by omega
  have inWord : 8 + i < 32 := by omega
  simp [belowB, inWord, hi]
  omega

theorem bField_commandWord (o a b : Byte) : bField (commandWord o a b) = b := by
  apply BitVec.eq_of_getLsbD_eq
  intro i hi
  simp only [bField, commandWord, BitVec.getLsbD_extractLsb', BitVec.getLsbD_or, BitVec.getLsbD_shiftLeft,
    BitVec.getLsbD_setWidth]
  have inWord : 16 + i < 32 := by omega
  simp [inWord, hi, BitVec.getLsbD_of_ge o (16 + i) (by omega), BitVec.getLsbD_of_ge a (16 + i - 8) (by omega)]
  omega

theorem decodeBare_commandWord (o : Byte) (i : Instr) : decodeBare (commandWord o 0 0) i = .ok i := by
  simp [decodeBare, aField_commandWord, bField_commandWord]

theorem decodeB_commandWord (o b : Byte) (mk : Byte → Instr) : decodeB (commandWord o 0 b) mk = .ok (mk b) := by
  simp [decodeB, aField_commandWord, bField_commandWord]

theorem decodeAB_commandWord (o a b : Byte) (mk : Byte → Byte → Instr) :
    decodeAB (commandWord o a b) mk = .ok (mk a b) := by
  simp [decodeAB, aField_commandWord, bField_commandWord]

/-- The decoder gives back every command (R92, R93): its word has no reserved bit, its opcode selects its own row, and
the row takes the fields the command was encoded with. -/
theorem decode_encode (i : Instr) : decode (encode i) = .ok i := by
  cases i with
  | gfmul a b | interp a b | split a b =>
    simp only [encode, decode, Laws.zField_commandWord, Laws.opcField_commandWord, ne_eq, not_true_eq_false, if_false]
    exact decodeAB_commandWord _ a b _
  | srecover b =>
    simp only [encode, decode, Laws.zField_commandWord, Laws.opcField_commandWord, ne_eq, not_true_eq_false, if_false]
    exact decodeB_commandWord _ b _
  | _ =>
    simp only [encode, decode, Laws.zField_commandWord, Laws.opcField_commandWord, ne_eq, not_true_eq_false, if_false]
    exact decodeBare_commandWord _ _

/-- A word of the table is a cell value already, so nothing of it is cut off. -/
theorem ofNat_toNat_mod (v : CellValue) : BitVec.ofNat 32 (v.toNat % 2 ^ 32) = v := by
  rw [Nat.mod_eq_of_lt v.isLt, BitVec.ofNat_toNat, BitVec.setWidth_eq]

theorem decodeTableWord_encode (i : Instr) : decodeTableWord 32 (encode i).toNat = some i := by
  rw [decodeTableWord, ofNat_toNat_mod, decode_encode]

end Sys2Proof
end

section
/-! PROOFS. What a step can do (20_memory.md R62, R63, R74): nothing, a reply, a command word, or a stored cell; and how
a command word leaves `STATUS` (10_state.md R25, R38). -/

namespace Sys2Proof.Machine

/-! ## Transactions on `CMD` -/

@[simp] theorem locate_zero (C : Config) : locate C 0 = some .cmd := rfl

/-- `CMD` has the address 0 and no other (R64). -/
theorem eq_zero_of_locate_cmd {C : Config} {a : Addr} (h : locate C a = some .cmd) : a = 0 :=
  ((addr_eq_iff .cmd a).mpr (locate_eq_some h).2).symm

/-- A write to `CMD` executes the word on the state with the rest of the script (R24, R63). -/
theorem step_write_cmd {s : State} {v : CellValue} {rest : List Txn} (hs : s.script = .write 0 v :: rest) :
    step s = execute v { s with script := rest } :=
  (step_cons hs).trans (writeTxn_cmd (locate_zero hardware))

theorem execute_of_decode {v : CellValue} {i : Instr} (h : decode v = .ok i) (s : State) : execute v s = exec i s := by
  simp only [execute, h]

/-! ## A step -/

/-- The host's script is no cell (R20; log 1). -/
theorem readLoc_script (s : State) (rest : List Txn) (l : Loc) :
    State.readLoc { s with script := rest } l = s.readLoc l := by
  cases l <;> rfl

/-- What a step that answers a next state can do: idle, hand out a reply, run a command word, or store a cell at a
mapped location other than `CMD`. -/
theorem step_eq_next {s t : State} (h : step s = .next t) :
    (s.script = [] ∧ t = s) ∨
    (∃ a l rest, s.script = .read a :: rest ∧ t = { s with script := rest, replies := s.replies ++ [s.readLoc l] }) ∨
    (∃ v rest, s.script = .write 0 v :: rest ∧ execute v { s with script := rest } = .next t) ∨
    (∃ a l v rest, s.script = .write a v :: rest ∧ locate hardware a = some l ∧ l ≠ .cmd ∧
      t = State.writeLoc { s with script := rest } l v) := by
  cases hs : s.script with
  | nil =>
    rw [step_idle hs, Host.Outcome.next.injEq] at h
    exact .inl ⟨rfl, h.symm⟩
  | cons txn rest =>
    rw [step_cons hs] at h
    rcases transact_cases txn { s with script := rest } with ⟨a, -, -, ht⟩ | ⟨a, l, rfl, -, ht⟩ | ⟨a, v, rfl, ha, ht⟩ |
      ⟨a, l, v, rfl, ha, hl, ht⟩
    · exact absurd (ht.symm.trans h) (by simp)
    · exact .inr (.inl ⟨a, l, rest, rfl, by simpa [readLoc_script] using (ht.symm.trans h).symm⟩)
    · obtain rfl := eq_zero_of_locate_cmd ha
      exact .inr (.inr (.inl ⟨v, rest, rfl, ht.symm.trans h⟩))
    · exact .inr (.inr (.inr ⟨a, l, v, rest, rfl, ha, hl, by simpa using (ht.symm.trans h).symm⟩))

/-! ## `STATUS` after a command word -/

theorem statusError_ne_zero (e : CmdError) : statusError e ≠ 0 := by cases e <;> decide

@[simp] theorem done_succeed (s : State) : s.succeed.done = true := by
  simp only [State.done, State.succeed_status]
  decide

@[simp] theorem done_fail (s : State) (e : CmdError) : (s.fail e).done = true := by
  simp only [State.done, State.fail_status]
  cases e <;> decide

/-- Every command word, legal or not, sets `DONE` (R38). -/
theorem done_of_execute {v : CellValue} {s t : State} (h : execute v s = .next t) : t.done = true := by
  rcases execute_next v s with ⟨_, r, -, -, he⟩ | ⟨e, he⟩
  · obtain rfl : r.succeed = t := by simpa using he.symm.trans h
    exact done_succeed r
  · obtain rfl : s.fail e = t := by simpa using he.symm.trans h
    exact done_fail s e

/-! ## The statements -/

/-- Settles O5: the word at the head of the script is executed, and the decoder says which command it is. -/
theorem stepRunsDecodedCommand : Obligations.StepRunsDecodedCommand :=
  fun s rest _ _ hs hd => (step_write_cmd hs).trans (execute_of_decode hd { s with script := rest })

/-- Settles O6: by `decode_encode`, and O5 on the state with the word placed. -/
theorem placedWordRunsItsCommand : Obligations.PlacedWordRunsItsCommand := by
  refine fun i s => ⟨decodeTableWord_encode i, ?_⟩
  have placed : (s.withFetchWord 32 (encode i).toNat).script = .write 0x0000 (encode i) :: s.script := by
    simp only [State.withFetchWord, ofNat_toNat_mod]
    rfl
  exact stepRunsDecodedCommand _ _ _ _ placed (decode_encode i)

/-- Settles O14: of the four things a step can do, only the command word touches the three. -/
theorem onlyCommandsWriteStatusAndRes : Obligations.OnlyCommandsWriteStatusAndRes := by
  intro s t h noCommand
  rcases step_eq_next h with ⟨-, rfl⟩ | ⟨a, l, rest, -, rfl⟩ | ⟨v, rest, hs, -⟩ | ⟨a, l, v, rest, -, -, -, rfl⟩
  · exact ⟨rfl, rfl, rfl⟩
  · exact ⟨rfl, rfl, rfl⟩
  · exact absurd hs (noCommand v rest)
  · obtain ⟨hstatus, hres, hdrawn, -, -⟩ := writeLoc_rest { s with script := rest } l v
    exact ⟨hstatus, hres, hdrawn⟩

/-- Settles O15: a command word sets `DONE`, and a step that runs none leaves `STATUS` (O14). -/
theorem doneIsSetAndStays : Obligations.DoneIsSetAndStays := by
  intro s t h
  have setByCommand : ∀ v rest, s.script = .write 0x0000 v :: rest → t.done = true := fun v rest hs =>
    done_of_execute ((step_write_cmd hs).symm.trans h)
  refine ⟨fun hdone => ?_, setByCommand⟩
  by_cases command : ∃ v rest, s.script = .write 0x0000 v :: rest
  · obtain ⟨v, rest, hs⟩ := command
    exact setByCommand v rest hs
  · obtain ⟨hstatus, -, -⟩ := onlyCommandsWriteStatusAndRes s t h fun v rest hs => command ⟨v, rest, hs⟩
    rwa [State.done, hstatus]

end Sys2Proof.Machine
end

section
/-! PROOFS. How many bytes and words a command can write at most (10_state.md R36, R37): bounds on what the pure
functions return that need no assumption on their arguments. The exact lengths, where there are any, are in Laws/Lengths. -/

namespace Sys2Proof.Machine

/-! ## Operands -/

theorem length_value {s : State} (h : s.len.toNat ≤ 32) : s.value.length = s.len.toNat := by simp [State.value, h]

theorem length_words {s : State} (h : s.wlen.toNat ≤ 33) : s.words.length = s.wlen.toNat := by simp [State.words, h]

theorem getElem?_words {s : State} (k : Fin 33) (h : k.val < s.wlen.toNat) : s.words[k.val]? = some s.w[k] := by
  simp [State.words, List.getElem?_take_of_lt h]

theorem wordCount_le_wordCount {n m : Nat} (h : n ≤ m) : wordCount n ≤ wordCount m := by
  unfold wordCount
  omega

/-! ## Shamir engine -/

theorem length_interpolate_le (C : Config) (pts : List (Byte × List Byte)) (q : Byte) (len : Nat) :
    (interpolate C pts q len).length ≤ len := by
  unfold interpolate
  split
  · exact List.length_take_le _ _
  · simp

theorem length_of_mem_shamirSplit_le {C : Config} {drawn count t : Nat} {secret y : List Byte}
    (hy : y ∈ shamirSplit C drawn count t secret) : y.length ≤ secret.length := by
  unfold shamirSplit at hy
  split at hy
  · rw [List.eq_of_mem_replicate hy]
  · obtain ⟨x, -, rfl⟩ := List.mem_map.mp hy
    exact length_interpolate_le _ _ _ _

theorem length_of_shamirRecover_le {C : Config} {t len : Nat} {pts : List (Byte × List Byte)} {b : List Byte}
    (h : shamirRecover C t pts len = .ok b) : b.length ≤ len := by
  by_cases ht : t = 1
  · subst ht
    rw [shamirRecover_one, Except.ok.injEq] at h
    exact h ▸ List.length_take_le _ _
  · obtain ⟨-, rfl⟩ := (shamirRecover_eq_ok ht).mp h
    exact length_interpolate_le _ _ _ _

/-! ## Feistel cipher -/

/-- A round makes the halves together no longer (R213). -/
theorem length_feistelRound_le (C : Config) (ident : BitVec 15) (ie : BitVec 5) (pp : List Byte)
    (lr : List Byte × List Byte) (i : Byte) :
    (feistelRound C ident ie pp lr i).1.length + (feistelRound C ident ie pp lr i).2.length ≤
      lr.1.length + lr.2.length := by
  simp [feistelRound]
  omega

theorem length_foldl_feistelRound_le (C : Config) (ident : BitVec 15) (ie : BitVec 5) (pp order : List Byte)
    (lr : List Byte × List Byte) :
    (order.foldl (feistelRound C ident ie pp) lr).1.length + (order.foldl (feistelRound C ident ie pp) lr).2.length ≤
      lr.1.length + lr.2.length := by
  induction order generalizing lr with
  | nil => exact Nat.le_refl _
  | cons i order ih => exact (ih _).trans (length_feistelRound_le C ident ie pp lr i)

theorem length_feistel_le (C : Config) (order sec : List Byte) (ident : BitVec 15) (ie : BitVec 5) (pp : List Byte) :
    (feistel C order sec ident ie pp).length ≤ sec.length := by
  have halves := length_foldl_feistelRound_le C ident ie pp order
    (sec.take (sec.length / 2), sec.drop (sec.length / 2))
  simp only [List.length_take, List.length_drop] at halves
  simp only [feistel, List.length_append]
  omega

/-! ## Share codec -/

/-- The value of a decoded share has the length its value words decode to (R142, R235). -/
theorem length_value_of_shareDecode {C : Config} {w : List Word} {h : Share} (hd : shareDecode C w = .ok h) :
    h.value.length = decodedLength (w.length - 7) := by
  obtain ⟨-, -, b, hb, rfl⟩ := shareDecode_eq_ok.mp hd
  rw [← length_valueWords]
  exact length_of_bytesOfWords hb

/-! ## Orchestrator -/

/-- At most one mnemonic for each member of each group (R253). -/
theorem length_memberMnemonics_le (C : Config) (base : Share) (drawn g : Nat) (groups : List (Nat × Nat))
    (gsh : List (List Byte)) :
    (memberMnemonics C base drawn g groups gsh).length ≤ (groups.map Prod.fst).sum := by
  induction groups generalizing drawn g gsh with
  | nil => cases gsh <;> simp [memberMnemonics]
  | cons group groups ih =>
    cases gsh with
    | nil => simp [memberMnemonics]
    | cons y gsh =>
      have rest := ih (drawn + splitDraws group.2 y.length) (g + 1) gsh
      simp [memberMnemonics, rest]

/-- Every mnemonic holds a value no longer than the longest group share (R230, R253). -/
theorem length_of_mem_memberMnemonics_le {C : Config} {base : Share} {drawn g n : Nat} {groups : List (Nat × Nat)}
    {gsh : List (List Byte)} {ws : List Word} (hn : ∀ y ∈ gsh, y.length ≤ n)
    (hws : ws ∈ memberMnemonics C base drawn g groups gsh) : ws.length ≤ 7 + wordCount n := by
  induction groups generalizing drawn g gsh with
  | nil => cases gsh <;> simp [memberMnemonics] at hws
  | cons group groups ih =>
    cases gsh with
    | nil => simp [memberMnemonics] at hws
    | cons y gsh =>
      rw [memberMnemonics, List.mem_append, List.mem_map] at hws
      rcases hws with ⟨⟨v, m⟩, hv, rfl⟩ | hws
      · have share : v.length ≤ y.length := length_of_mem_shamirSplit_le (List.fst_mem_of_mem_zipIdx hv)
        rw [length_shareEncode]
        exact Nat.add_le_add_left (wordCount_le_wordCount (share.trans (hn y List.mem_cons_self))) 7
      · exact ih (fun y' hy' => hn y' (List.mem_cons_of_mem _ hy')) hws

theorem length_generate_le (C : Config) (drawn : Nat) (ms : List Byte) (ie : BitVec 5) (ident : BitVec 15)
    (pp : List Byte) (gt gc : BitVec 5) (groups : List (Nat × Nat)) :
    (generate C drawn ms ie ident pp gt gc groups).length ≤ (groups.map Prod.fst).sum :=
  length_memberMnemonics_le _ _ _ _ _ _

theorem length_of_mem_generate_le {C : Config} {drawn : Nat} {ms : List Byte} {ie : BitVec 5} {ident : BitVec 15}
    {pp : List Byte} {gt gc : BitVec 5} {groups : List (Nat × Nat)} {ws : List Word}
    (hws : ws ∈ generate C drawn ms ie ident pp gt gc groups) : ws.length ≤ 7 + wordCount ms.length :=
  length_of_mem_memberMnemonics_le
    (fun _ hy => (length_of_mem_shamirSplit_le hy).trans (length_feistel_le _ _ _ _ _ _)) hws

/-- The recovered secret is no longer than the value of the first share (R266, R267). -/
theorem length_of_recoverShares_le {C : Config} {pp : List Byte} {h0 : Share} {hs : List Share} {b : List Byte}
    (h : recoverShares C pp h0 hs = .ok b) : b.length ≤ h0.value.length := by
  obtain ⟨-, -, _, _, -, -, hsecret⟩ := recoverShares_eq_ok.mp h
  obtain ⟨_, ems, -, hems, rfl⟩ := recoverSecret_eq_ok.mp hsecret
  exact (length_feistel_le _ _ ems _ _ _).trans (length_of_shamirRecover_le hems)

/-- The first share of a recovery is the one in row 0 (R261). -/
theorem length_value_of_decodeRows {C : Config} {s : State} {h0 : Share} {hs : List Share}
    (h : decodeRows C s.rows = .ok (h0 :: hs)) : h0.value.length = decodedLength (s.mnlen[0].toNat - 7) := by
  cases hrows : s.rows with
  | nil => simp [hrows, decodeRows] at h
  | cons row rows =>
    have first : row = (s.mnlen[0], s.mn[0]) := by
      have hget : s.rows[0]? = some row := by rw [hrows]; rfl
      obtain ⟨hlt, hget⟩ := List.getElem?_eq_some_iff.mp hget
      simpa [State.rows] using hget.symm
    rw [hrows, decodeRows_cons_ok] at h
    obtain ⟨h', hs', hrow, -, heq⟩ := h
    obtain ⟨rfl, -⟩ := List.cons_eq_cons.mp heq
    obtain ⟨⟨-, hlen⟩, hshare⟩ := decodeRow_eq_ok.mp hrow
    rw [first] at hlen hshare
    rw [length_value_of_shareDecode hshare]
    simp [hlen]

end Sys2Proof.Machine
end

section
/-! PROOFS. The frame of every command (10_state.md R36, R37): first of each update of the state, then of each command,
by the number of bytes and words it writes. -/

namespace Sys2Proof.Machine

open Sys2Proof.Safety

variable {written : Loc → Bool} {s : State}

/-! ## Updates -/

/-- Cells that are not marked lie beyond what is written. -/
theorem le_of_not_written {k n : Nat} {marked : Bool} (h : k < n → marked = true) (hm : marked = false) : n ≤ k := by
  by_contra hk
  simp [h (by omega)] at hm

/-- A cell of an overwritten buffer of rows keeps its contents where its row is not written that far (R37). -/
theorem getElem_overwriteRows_of_ge {α : Type} {n m : Nat} (v : Vector (Vector α m) n) (l : List (List α)) (i k : Nat)
    (hi : i < n) (hk : k < m) (h : ∀ row, l[i]? = some row → row.length ≤ k) : (overwriteRows v l)[i][k] = v[i][k] := by
  rw [getElem_overwriteRows]
  cases hrow : l[i]? with
  | none => rfl
  | some row => exact getElem_overwrite_of_ge _ _ _ hk (h row hrow)

theorem sameBut_refl : SameBut written s s := ⟨fun _ _ => rfl, rfl, rfl⟩

theorem sameBut_putRes (v : BitVec 32) (hres : written .res = true) : SameBut written s (s.putRes v) := by
  refine ⟨fun l hl => ?_, rfl, rfl⟩
  cases l with
  | res => simp [hres] at hl
  | _ => rfl

theorem sameBut_putVal (b : List Byte) (hval : ∀ k : Fin 32, k.val < b.length → written (.val k) = true) :
    SameBut written s (s.putVal b) := by
  refine ⟨fun l hl => ?_, rfl, rfl⟩
  cases l with
  | val k => exact congrArg (BitVec.setWidth 32) (getElem_overwrite_of_ge _ _ _ k.isLt (le_of_not_written (hval k) hl))
  | _ => rfl

theorem sameBut_putValue (b : List Byte) (hval : ∀ k : Fin 32, k.val < b.length → written (.val k) = true)
    (hlen : written .len = true) : SameBut written s (s.putValue b) := by
  refine ⟨fun l hl => ?_, rfl, rfl⟩
  cases l with
  | val k => exact congrArg (BitVec.setWidth 32) (getElem_overwrite_of_ge _ _ _ k.isLt (le_of_not_written (hval k) hl))
  | len => simp [hlen] at hl
  | _ => rfl

theorem sameBut_putW (ws : List Word)
    (hw : ∀ k : Fin 33, written (.w k) = false → ws[k.val]?.getD s.w[k] = s.w[k]) : SameBut written s (s.putW ws) := by
  refine ⟨fun l hl => ?_, rfl, rfl⟩
  cases l with
  | w k => exact congrArg (BitVec.setWidth 32) ((getElem_overwrite _ _ _ k.isLt).trans (hw k hl))
  | _ => rfl

theorem sameBut_putWords (ws : List Word) (hw : ∀ k : Fin 33, k.val < ws.length → written (.w k) = true)
    (hwlen : written .wlen = true) : SameBut written s (s.putWords ws) := by
  refine ⟨fun l hl => ?_, rfl, rfl⟩
  cases l with
  | w k => exact congrArg (BitVec.setWidth 32) (getElem_overwrite_of_ge _ _ _ k.isLt (le_of_not_written (hw k) hl))
  | wlen => simp [hwlen] at hl
  | _ => rfl

theorem sameBut_putShare (h : Share) (hval : ∀ k : Fin 32, k.val < h.value.length → written (.val k) = true)
    (hregs : ∀ l ∈ [Loc.id, .ie, .gi, .gt, .gc, .mi, .mt, .len], written l = true) :
    SameBut written s (s.putShare h) := by
  refine ⟨fun l hl => ?_, rfl, rfl⟩
  cases l with
  | val k => exact congrArg (BitVec.setWidth 32) (getElem_overwrite_of_ge _ _ _ k.isLt (le_of_not_written (hval k) hl))
  | id | ie | gi | gt | gc | mi | mt | len => exact absurd hl (by simp [hregs])
  | _ => rfl

theorem sameBut_putChecked (h : Share) (hregs : ∀ l ∈ [Loc.gi, .mi, .mt, .id, .ie], written l = true) :
    SameBut written s (s.putChecked h) := by
  refine ⟨fun l hl => ?_, rfl, rfl⟩
  cases l with
  | gi | mi | mt | id | ie => exact absurd hl (by simp [hregs])
  | _ => rfl

theorem sameBut_putPoints (sh : List (List Byte)) (drawn : Nat)
    (hxs : ∀ i : Fin 16, i.val < sh.length → written (.xs i) = true)
    (hys : ∀ (i : Fin 16) (k : Fin 32) (row : List Byte), sh[i.val]? = some row → k.val < row.length →
      written (.ys i k) = true) : SameBut written s (s.putPoints sh drawn) := by
  refine ⟨fun l hl => ?_, rfl, rfl⟩
  cases l with
  | xs i =>
    exact congrArg (BitVec.setWidth 32)
      (getElem_overwrite_of_ge _ _ _ i.isLt (by simpa using le_of_not_written (hxs i) hl))
  | ys i k =>
    exact congrArg (BitVec.setWidth 32) (getElem_overwriteRows_of_ge _ _ _ _ i.isLt k.isLt
      fun row hrow => le_of_not_written (hys i k row hrow) hl)
  | _ => rfl

theorem sameBut_putMnemonics (out : List (List Word)) (drawn : Nat)
    (hmn : ∀ (m : Fin 256) (k : Fin 33) (ws : List Word), out[m.val]? = some ws → k.val < ws.length →
      written (.mn m k) = true)
    (hmnlen : ∀ m : Fin 256, m.val < out.length → written (.mnlen m) = true) (hnsh : written .nsh = true) :
    SameBut written s (s.putMnemonics out drawn) := by
  refine ⟨fun l hl => ?_, rfl, rfl⟩
  cases l with
  | mn m k =>
    exact congrArg (BitVec.setWidth 32) (getElem_overwriteRows_of_ge _ _ _ _ m.isLt k.isLt
      fun ws hws => le_of_not_written (hmn m k ws hws) hl)
  | mnlen m =>
    exact congrArg (BitVec.setWidth 32)
      (getElem_overwrite_of_ge _ _ _ m.isLt (by simpa using le_of_not_written (hmnlen m) hl))
  | nsh => simp [hnsh] at hl
  | _ => rfl

/-- `CLR` leaves `CMD` and `STATUS`, the only locations that are neither read-write nor `RES` (R64, R291). -/
theorem sameBut_clear (hcell : ∀ l : Loc, l.readWrite = true ∨ l = .res → written l = true) :
    SameBut written s s.clear := by
  refine ⟨fun l hl => ?_, rfl, rfl⟩
  cases l with
  | cmd | status => rfl
  | _ => exact absurd hl (by simp [hcell, Loc.readWrite])

/-! ## The table of R36

Where a command writes a part of a buffer, the cells it names. -/

theorem inRows_iff (total len m k : Nat) : inRows total len m k = true ↔ m < total ∧ k < len := by simp [inRows]

theorem resultLoc_clr (l : Loc) : resultLoc .clr s l = true ↔ l.readWrite = true ∨ l = .res :=
  (Bool.or_eq_true _ _).to_iff.trans (or_congr_right beq_iff_eq)

theorem resultLoc_wenc_w (k : Fin 33) : resultLoc .wenc s (.w k) = true ↔ k.val < wordCount s.len.toNat :=
  decide_eq_true_iff

theorem resultLoc_wdec_val (k : Fin 32) : resultLoc .wdec s (.val k) = true ↔ k.val < decodedLength s.wlen.toNat :=
  decide_eq_true_iff

theorem resultLoc_rscreate_w (k : Fin 33) :
    resultLoc .rscreate s (.w k) = true ↔ s.wlen.toNat - 3 ≤ k.val ∧ k.val < s.wlen.toNat :=
  (Bool.and_eq_true _ _).to_iff.trans (and_congr decide_eq_true_iff decide_eq_true_iff)

theorem resultLoc_interp_val (q n : Byte) (k : Fin 32) :
    resultLoc (.interp q n) s (.val k) = true ↔ k.val < s.len.toNat := decide_eq_true_iff

theorem resultLoc_split_xs (c t : Byte) (i : Fin 16) : resultLoc (.split c t) s (.xs i) = true ↔ i.val < c.toNat :=
  decide_eq_true_iff

theorem resultLoc_split_ys (c t : Byte) (i : Fin 16) (k : Fin 32) :
    resultLoc (.split c t) s (.ys i k) = true ↔ i.val < c.toNat ∧ k.val < s.len.toNat := inRows_iff _ _ _ _

theorem resultLoc_srecover_val (t : Byte) (k : Fin 32) :
    resultLoc (.srecover t) s (.val k) = true ↔ k.val < s.len.toNat := decide_eq_true_iff

theorem resultLoc_fenc_val (k : Fin 32) : resultLoc .fenc s (.val k) = true ↔ k.val < s.len.toNat := decide_eq_true_iff

theorem resultLoc_fdec_val (k : Fin 32) : resultLoc .fdec s (.val k) = true ↔ k.val < s.len.toNat := decide_eq_true_iff

theorem resultLoc_shenc_w (k : Fin 33) : resultLoc .shenc s (.w k) = true ↔ k.val < 7 + wordCount s.len.toNat :=
  decide_eq_true_iff

theorem resultLoc_shdec_val (k : Fin 32) :
    resultLoc .shdec s (.val k) = true ↔ k.val < decodedLength (s.wlen.toNat - 7) := decide_eq_true_iff

theorem resultLoc_generate_mn (m : Fin 256) (k : Fin 33) :
    resultLoc .generate s (.mn m k) = true ↔
      m.val < (s.groups.map Prod.fst).sum ∧ k.val < 7 + wordCount s.len.toNat := inRows_iff _ _ _ _

theorem resultLoc_generate_mnlen (m : Fin 256) :
    resultLoc .generate s (.mnlen m) = true ↔ m.val < (s.groups.map Prod.fst).sum := decide_eq_true_iff

theorem resultLoc_recover_val (k : Fin 32) :
    resultLoc .recover s (.val k) = true ↔ k.val < decodedLength (s.mnlen[0].toNat - 7) := decide_eq_true_iff

/-! ## Commands -/

variable {C : Config} {t : State}

theorem sameBut_wencBody (h : wencBody C s = .ok t) : SameBut (resultLoc .wenc s) s t := by
  obtain ⟨⟨-, hlen⟩, rfl⟩ := wencBody_eq_ok.mp h
  refine sameBut_putWords _ (fun k hk => (resultLoc_wenc_w k).mpr ?_) rfl
  rwa [length_wordsOfBytes, length_value hlen] at hk

theorem sameBut_wdecBody (h : wdecBody C s = .ok t) : SameBut (resultLoc .wdec s) s t := by
  obtain ⟨⟨-, hwlen⟩, b, hb, rfl⟩ := wdecBody_eq_ok.mp h
  refine sameBut_putValue _ (fun k hk => (resultLoc_wdec_val k).mpr ?_) rfl
  rwa [length_of_bytesOfWords hb, length_words (by omega)] at hk

/-- The words `RSCREATE` writes before the last three are those that stand there (R167). -/
theorem sameBut_rscreateBody (h : rscreateBody C s = .ok t) : SameBut (resultLoc .rscreate s) s t := by
  obtain ⟨⟨hmin, hmax⟩, rfl⟩ := rscreateBody_eq_ok.mp h
  have hlen := length_words hmax
  refine sameBut_putW _ fun k hk => ?_
  rw [← Bool.not_eq_true, resultLoc_rscreate_w] at hk
  by_cases data : k.val < s.wlen.toNat - 3
  · have inData : k.val < (s.words.take (s.words.length - 3)).length := by
      rw [List.length_take, hlen]
      omega
    rw [rsCreate, List.getElem?_append_left inData, List.getElem?_take_of_lt (hlen ▸ data),
      getElem?_words k (by omega)]
    rfl
  · have beyond : (rsCreate C s.words).length ≤ k.val := by
      rw [length_rsCreate _ _ (by omega), hlen]
      omega
    rw [List.getElem?_eq_none beyond]
    rfl

theorem sameBut_interpBody {q n : Byte} (h : interpBody C q n s = .ok t) : SameBut (resultLoc (.interp q n) s) s t := by
  obtain ⟨-, -, -, rfl⟩ := interpBody_eq_ok.mp h
  exact sameBut_putVal _ fun k hk => (resultLoc_interp_val q n k).mpr (hk.trans_le (length_interpolate_le _ _ _ _))

theorem sameBut_splitBody {c k : Byte} (h : splitBody C c k s = .ok t) : SameBut (resultLoc (.split c k) s) s t := by
  obtain ⟨-, ⟨-, hlen⟩, rfl⟩ := splitBody_eq_ok.mp h
  refine sameBut_putPoints _ _ (fun i hi => (resultLoc_split_xs c k i).mpr ?_)
    fun i j row hrow hj => (resultLoc_split_ys c k i j).mpr ⟨?_, ?_⟩
  · rwa [length_shamirSplit] at hi
  · obtain ⟨hi, -⟩ := List.getElem?_eq_some_iff.mp hrow
    rwa [length_shamirSplit] at hi
  · rw [← length_value hlen]
    exact hj.trans_le (length_of_mem_shamirSplit_le (List.mem_of_getElem? hrow))

theorem sameBut_srecoverBody {threshold : Byte} (h : srecoverBody C threshold s = .ok t) :
    SameBut (resultLoc (.srecover threshold) s) s t := by
  obtain ⟨-, -, -, b, hb, rfl⟩ := srecoverBody_eq_ok.mp h
  exact sameBut_putVal _ fun k hk =>
    (resultLoc_srecover_val threshold k).mpr (hk.trans_le (length_of_shamirRecover_le hb))

/-- The cipher writes `VAL` in place, no matter in which order its rounds run (R215, R216). -/
theorem sameBut_cipherBody {order : List Byte} (h : cipherBody C (feistel C order) s = .ok t)
    (hval : ∀ k : Fin 32, k.val < s.len.toNat → written (.val k) = true) : SameBut written s t := by
  obtain ⟨⟨-, hlen, -⟩, -, rfl⟩ := cipherBody_eq_ok.mp h
  refine sameBut_putVal _ fun k hk => hval k ?_
  rw [← length_value hlen]
  exact hk.trans_le (length_feistel_le _ _ _ _ _ _)

theorem sameBut_shencBody (h : shencBody C s = .ok t) : SameBut (resultLoc .shenc s) s t := by
  obtain ⟨-, -, ⟨-, hlen⟩, rfl⟩ := shencBody_eq_ok.mp h
  refine sameBut_putWords _ (fun k hk => (resultLoc_shenc_w k).mpr ?_) rfl
  rw [← length_value hlen]
  rwa [length_shareEncode] at hk

theorem sameBut_shdecBody (h : shdecBody C s = .ok t) : SameBut (resultLoc .shdec s) s t := by
  obtain ⟨share, hshare, rfl⟩ := shdecBody_eq_ok.mp h
  obtain ⟨⟨-, hwlen⟩, hdecode⟩ := decodeW_eq_ok.mp hshare
  refine sameBut_putShare _ (fun k hk => (resultLoc_shdec_val k).mpr ?_) ?_
  · rwa [length_value_of_shareDecode hdecode, length_words hwlen] at hk
  · simp only [List.forall_mem_cons]
    exact ⟨rfl, rfl, rfl, rfl, rfl, rfl, rfl, rfl, List.forall_mem_nil _⟩

theorem sameBut_check1Body (h : check1Body C s = .ok t) : SameBut (resultLoc .check1 s) s t := by
  obtain ⟨share, -, rfl⟩ := check1Body_eq_ok.mp h
  refine sameBut_putChecked _ ?_
  simp only [List.forall_mem_cons]
  exact ⟨rfl, rfl, rfl, rfl, rfl, List.forall_mem_nil _⟩

theorem sameBut_generateBody (h : generateBody C s = .ok t) : SameBut (resultLoc .generate s) s t := by
  obtain ⟨-, ⟨-, hlen, -⟩, -, -, rfl⟩ := generateBody_eq_ok.mp h
  have rows := length_generate_le C s.rngDrawn s.value s.ie s.id s.passphrase s.gt s.gc s.groups
  refine sameBut_putMnemonics _ _ (fun m k ws hws hk => (resultLoc_generate_mn m k).mpr ⟨?_, ?_⟩)
    (fun m hm => (resultLoc_generate_mnlen m).mpr (hm.trans_le rows)) rfl
  · obtain ⟨hm, -⟩ := List.getElem?_eq_some_iff.mp hws
    exact hm.trans_le rows
  · rw [← length_value hlen]
    exact hk.trans_le (length_of_mem_generate_le (List.mem_of_getElem? hws))

theorem sameBut_recoverBody (h : recoverBody C s = .ok t) : SameBut (resultLoc .recover s) s t := by
  obtain ⟨-, -, -, h0, hs, b, hrows, hb, rfl⟩ := recoverBody_eq_ok.mp h
  refine sameBut_putValue _ (fun k hk => (resultLoc_recover_val k).mpr ?_) rfl
  rw [← length_value_of_decodeRows hrows]
  exact hk.trans_le (length_of_recoverShares_le hb)

/-- The results of a command stand in the locations the table of R36 names for it, under every configuration. -/
theorem sameBut_of_commandBody {i : Instr} (h : commandBody C i s = .ok t) : SameBut (resultLoc i s) s t := by
  cases i with
  | nop => exact ok_eq_ok.mp h ▸ sameBut_refl
  | clr => exact ok_eq_ok.mp h ▸ sameBut_clear fun l => (resultLoc_clr l).mpr
  | gfmul a b => exact ok_eq_ok.mp h ▸ sameBut_putRes _ rfl
  | rspoly =>
    obtain ⟨-, rfl⟩ := rspolyBody_eq_ok.mp h
    exact sameBut_putRes _ rfl
  | rsverify =>
    obtain ⟨-, rfl⟩ := rsverifyBody_eq_ok.mp h
    exact sameBut_putRes _ rfl
  | wenc => exact sameBut_wencBody (C := C) h
  | wdec => exact sameBut_wdecBody (C := C) h
  | rscreate => exact sameBut_rscreateBody h
  | interp q n => exact sameBut_interpBody h
  | split c k => exact sameBut_splitBody h
  | srecover k => exact sameBut_srecoverBody h
  | fenc => exact sameBut_cipherBody (order := [0, 1, 2, 3]) h fun k => (resultLoc_fenc_val k).mpr
  | fdec => exact sameBut_cipherBody (order := [3, 2, 1, 0]) h fun k => (resultLoc_fdec_val k).mpr
  | shenc => exact sameBut_shencBody h
  | shdec => exact sameBut_shdecBody h
  | check1 => exact sameBut_check1Body h
  | generate => exact sameBut_generateBody h
  | recover => exact sameBut_recoverBody h

/-- Only `SPLIT` and `GENERATE` call the random source (R78). -/
theorem rngDrawn_of_commandBody {i : Instr} (h : commandBody C i s = .ok t) (notSplit : ∀ c k, i ≠ .split c k)
    (notGenerate : i ≠ .generate) : t.rngDrawn = s.rngDrawn := by
  cases i with
  | split c k => exact absurd rfl (notSplit c k)
  | generate => exact absurd rfl notGenerate
  | nop | clr | gfmul a b => exact ok_eq_ok.mp h ▸ rfl
  | wenc => obtain ⟨-, rfl⟩ := (wencBody_eq_ok (C := C)).mp h; rfl
  | wdec => obtain ⟨-, b, -, rfl⟩ := (wdecBody_eq_ok (C := C)).mp h; rfl
  | rspoly => obtain ⟨-, rfl⟩ := rspolyBody_eq_ok.mp h; rfl
  | rscreate => obtain ⟨-, rfl⟩ := rscreateBody_eq_ok.mp h; rfl
  | rsverify => obtain ⟨-, rfl⟩ := rsverifyBody_eq_ok.mp h; rfl
  | interp q n => obtain ⟨-, -, -, rfl⟩ := interpBody_eq_ok.mp h; rfl
  | srecover k => obtain ⟨-, -, -, b, -, rfl⟩ := srecoverBody_eq_ok.mp h; rfl
  | fenc | fdec => obtain ⟨-, -, rfl⟩ := cipherBody_eq_ok.mp h; rfl
  | shenc => obtain ⟨-, -, -, rfl⟩ := shencBody_eq_ok.mp h; rfl
  | shdec => obtain ⟨share, -, rfl⟩ := shdecBody_eq_ok.mp h; rfl
  | check1 => obtain ⟨share, -, rfl⟩ := check1Body_eq_ok.mp h; rfl
  | recover => obtain ⟨-, -, -, h0, hs, b, -, -, rfl⟩ := recoverBody_eq_ok.mp h; rfl

theorem mayWrite_eq_false {i : Instr} {l : Loc} (h : mayWrite i s l = false) :
    l ≠ .status ∧ resultLoc i s l = false := by
  simpa [mayWrite] using h

/-- Settles O20: the body of the command meets its frame (`sameBut_of_commandBody`), an error writes no result, and the
completion writes `STATUS` alone. -/
theorem commandsWriteOnlyTheirLocations : Obligations.CommandsWriteOnlyTheirLocations := by
  intro i s t h
  rw [exec_eq_finish] at h
  rcases finish_eq_next h with ⟨u, hu, rfl⟩ | ⟨e, -, rfl⟩
  · obtain ⟨frame, hscript, hreplies⟩ := sameBut_of_commandBody hu
    have drawn := rngDrawn_of_commandBody hu
    refine ⟨⟨fun l hl => ?_, hscript, hreplies⟩, drawn⟩
    obtain ⟨notStatus, notResult⟩ := mayWrite_eq_false hl
    exact (readLoc_succeed u l notStatus).trans (frame l notResult)
  · exact ⟨⟨fun l hl => readLoc_fail s e l (mayWrite_eq_false hl).1, rfl, rfl⟩, fun _ _ => rfl⟩

end Sys2Proof.Machine
end

section
/-! PROOFS. Reset and the invariant of every step (10_state.md R25, R26, R50; 60_exceptions.md R302): what commands
leave in `RES` and behind the passphrase buffer follows from their frames. -/

namespace Sys2Proof.Machine

open Sys2Proof.Safety

variable {s t : State}

/-! ## Reset -/

/-- Settles O11: every cell of every kind is reset to 0. -/
theorem resetReadsZero : Obligations.ResetReadsZero := by
  intro l
  cases l <;> simp [State.readLoc, State.reset]

/-- Settles O12. -/
theorem resetMeetsInvariant : Obligations.ResetMeetsInvariant where
  status := List.mem_cons_self
  res := by decide
  idle := fun _ => rfl
  spare := fun k _ => by simp [State.reset]

/-! ## Commands -/

/-- A command whose result is not `RES` leaves it; the others put fewer than 31 bits there (R124, R166, R168, R291). -/
theorem res_lt_of_commandBody {C : Config} {i : Instr} (h : commandBody C i s = .ok t) (hs : s.res.toNat < 2 ^ 30) :
    t.res.toNat < 2 ^ 30 := by
  obtain ⟨frame, -, -⟩ := sameBut_of_commandBody h
  cases i with
  | clr => exact ok_eq_ok.mp h ▸ Nat.two_pow_pos 30
  | gfmul a b =>
    obtain rfl := ok_eq_ok.mp h
    rw [State.putRes_res, BitVec.toNat_setWidth]
    exact (Nat.mod_le _ _).trans_lt ((gfMul C a b).isLt.trans (by decide))
  | rspoly =>
    obtain ⟨-, rfl⟩ := rspolyBody_eq_ok.mp h
    rw [State.putRes_res, BitVec.toNat_setWidth]
    exact (Nat.mod_le _ _).trans_lt (customPolymod C s.words).isLt
  | rsverify =>
    obtain ⟨-, rfl⟩ := rsverifyBody_eq_ok.mp h
    rw [State.putRes_res]
    split <;> decide
  | _ =>
    have unchanged : t.res = s.res := frame .res rfl
    rwa [unchanged]

/-- No command writes the passphrase but `CLR`, which zeroes it (R36, R291). -/
theorem pass_of_commandBody {C : Config} {i : Instr} (h : commandBody C i s = .ok t) (k : Fin passWindow)
    (hs : s.pass[k] = 0) : t.pass[k] = 0 := by
  obtain ⟨frame, -, -⟩ := sameBut_of_commandBody h
  cases i with
  | clr => exact ok_eq_ok.mp h ▸ by simp
  | _ =>
    have unchanged : t.pass[k].setWidth 32 = s.pass[k].setWidth 32 := frame (.pass k) rfl
    simpa [hs] using congrArg (BitVec.setWidth 8) unchanged

/-! ## The invariant -/

/-- The invariant speaks of `STATUS`, `RES` and the room behind the passphrase buffer only. -/
theorem inv_congr (hs : Inv s) (hstatus : t.status = s.status) (hres : t.res = s.res)
    (hpass : ∀ k : Fin passWindow, hardware.passMax.val ≤ k.val → t.pass[k] = s.pass[k]) : Inv t where
  status := hstatus ▸ hs.status
  res := hres ▸ hs.res
  idle := by rw [hstatus, hres]; exact hs.idle
  spare := fun k hk => (hpass k hk).trans (hs.spare k hk)

theorem mem_allErrors (e : CmdError) : e ∈ allErrors := by cases e <;> decide

/-- An error keeps the invariant: its word is one of the 13, and nothing else changes (R303). -/
theorem inv_fail (hs : Inv s) (e : CmdError) : Inv (s.fail e) where
  status := List.mem_cons_of_mem _ (List.mem_cons_of_mem _ (List.mem_map_of_mem (mem_allErrors e)))
  res := hs.res
  idle := fun h => absurd h (statusError_ne_zero e)
  spare := hs.spare

/-- Success keeps the invariant when the results of the command do (R300). -/
theorem inv_succeed_of_commandBody {i : Instr} (h : commandBody hardware i s = .ok t) (hs : Inv s) : Inv t.succeed := by
  have hres := res_lt_of_commandBody h hs.res
  have hpass := fun k hk => pass_of_commandBody h k (hs.spare k hk)
  exact ⟨List.mem_cons_of_mem _ List.mem_cons_self, hres, fun hzero => absurd hzero (by decide : statusOk ≠ 0), hpass⟩

theorem inv_of_execute {v : CellValue} (h : execute v s = .next t) (hs : Inv s) : Inv t := by
  rcases execute_next v s with ⟨i, r, -, hr, he⟩ | ⟨e, he⟩
  · obtain rfl : r.succeed = t := by simpa using he.symm.trans h
    exact inv_succeed_of_commandBody hr hs
  · obtain rfl : s.fail e = t := by simpa using he.symm.trans h
    exact inv_fail hs e

/-- A host write to a mapped location reaches neither `STATUS` nor `RES`, nor a cell behind the passphrase buffer, which
has no address (R31, R63; log 9). -/
theorem inv_writeLoc (hs : Inv s) {l : Loc} (hl : l.mapped hardware = true) (v : CellValue) : Inv (s.writeLoc l v) := by
  obtain ⟨hstatus, hres, -, -, -⟩ := writeLoc_rest s l v
  refine inv_congr hs hstatus hres fun k hk => getElem_writeLoc_pass s l v k ?_
  rintro rfl
  exact absurd ((mapped_pass_iff hardware k).mp hl) (Nat.not_lt.mpr hk)

/-- Settles O13: each of the four things a step can do keeps the invariant. -/
theorem stepKeepsInvariant : Obligations.StepKeepsInvariant := by
  intro s t hs h
  have rest_inv (rest : List Txn) : Inv { s with script := rest } := inv_congr hs rfl rfl fun _ _ => rfl
  rcases step_eq_next h with ⟨-, rfl⟩ | ⟨a, l, rest, -, rfl⟩ | ⟨v, rest, -, he⟩ | ⟨a, l, v, rest, -, ha, -, rfl⟩
  · exact hs
  · exact inv_congr hs rfl rfl fun _ _ => rfl
  · exact inv_of_execute he (rest_inv rest)
  · exact inv_writeLoc (rest_inv rest) (locate_eq_some ha).1 v

end Sys2Proof.Machine
end

section
/-! PROOFS. The host's reads and writes (20_memory.md R62, R63): what a read of a cell answers, alone and after a write
to the same or to another location. -/

namespace Sys2Proof.Machine

variable (s : State)

/-! ## Cells -/

/-- A cell of `n` bits reads as less than 2^n (R62). -/
theorem toNat_setWidth_lt {n : Nat} (x : BitVec n) : (x.setWidth 32).toNat < 2 ^ n := by
  rw [BitVec.toNat_setWidth]
  exact (Nat.mod_le _ _).trans_lt x.isLt

/-- A value cut to the width of a cell and read back keeps its low bits, the cell being no wider than the bus. -/
theorem toNat_setWidth_setWidth (v : CellValue) {n : Nat} (hn : n ≤ 32) :
    ((v.setWidth n).setWidth 32).toNat = v.toNat % 2 ^ n := by
  rw [BitVec.toNat_setWidth_of_le hn, BitVec.toNat_setWidth]

theorem getElem_set_set_self {α : Type} {n m : Nat} (v : Vector (Vector α m) n) (i : Fin n) (k : Fin m) (x : α) :
    (v.set i (v[i].set k x))[i][k] = x := by
  simp

/-- Writing one cell of a table of rows leaves every cell of another row or at another place of the row. -/
theorem getElem_set_set_ne {α : Type} {n m : Nat} (v : Vector (Vector α m) n) {i i' : Fin n} {k k' : Fin m} (x : α)
    (h : ¬ (i' = i ∧ k' = k)) : (v.set i (v[i].set k x))[i'][k'] = v[i'][k'] := by
  by_cases hi : i' = i
  · subst hi
    have hk : k.val ≠ k'.val := fun hk => h ⟨rfl, Fin.ext hk.symm⟩
    simp [Vector.getElem_set_ne _ _ hk]
  · have hi : i.val ≠ i'.val := fun hi' => hi (Fin.ext hi'.symm)
    simp [Vector.getElem_set_ne _ _ hi]

theorem getElem_set_ne_fin {α : Type} {n : Nat} (v : Vector α n) {i i' : Fin n} (x : α) (h : i' ≠ i) :
    (v.set i x)[i'] = v[i'] :=
  Vector.getElem_set_ne _ _ fun hi => h (Fin.ext hi.symm)

/-! ## Reading a location -/

/-- A reply fits the width of the cell it comes from (R62, R64). -/
theorem toNat_readLoc_lt (l : Loc) : (s.readLoc l).toNat < 2 ^ l.width := by
  cases l with
  | cmd => exact Nat.two_pow_pos 32
  | status | res => exact BitVec.isLt _
  | _ => exact toNat_setWidth_lt _

/-- A read-write cell keeps the low bits of what is written to it (R63). -/
theorem toNat_readLoc_writeLoc_self {l : Loc} (hl : l.readWrite = true) (v : CellValue) :
    ((s.writeLoc l v).readLoc l).toNat = v.toNat % 2 ^ l.width := by
  cases l with
  | cmd | status | res => exact absurd hl Bool.false_ne_true
  | xs i | grpcnt i | grpthr i | val i | w i | pass i | mnlen i =>
    simp only [State.writeLoc, State.readLoc, Fin.getElem_fin, Vector.getElem_set_self]
    exact toNat_setWidth_setWidth v (by decide)
  | ys i k | mn i k =>
    simp only [State.writeLoc, State.readLoc, getElem_set_set_self]
    exact toNat_setWidth_setWidth v (by decide)
  | _ => exact toNat_setWidth_setWidth v (by decide)

/-- A write leaves every location but the one it names (R63): the other locations of its buffer lie at other indices, and
all else in other fields. -/
theorem readLoc_writeLoc_ne {l l' : Loc} (h : l' ≠ l) (v : CellValue) : (s.writeLoc l v).readLoc l' = s.readLoc l' := by
  cases l with
  | xs i | grpcnt i | grpthr i | val i | w i | pass i | mnlen i =>
    cases l' with
    | xs j | grpcnt j | grpthr j | val j | w j | pass j | mnlen j =>
      first
      | rfl
      | exact congrArg (BitVec.setWidth 32) (getElem_set_ne_fin _ _ fun hj => h (hj ▸ rfl))
    | _ => rfl
  | ys i k | mn i k =>
    cases l' with
    | ys i' k' | mn i' k' =>
      first
      | rfl
      | exact congrArg (BitVec.setWidth 32) (getElem_set_set_ne _ _ fun ⟨hi, hk⟩ => h (hi ▸ hk ▸ rfl))
    | _ => rfl
  | _ => cases l' <;> first | rfl | exact absurd rfl h

/-! ## Transactions on a mapped location -/

variable {s} {rest : List Txn} {l : Loc} {v : CellValue}

theorem locate_addr {C : Config} (h : l.mapped C = true) : locate C l.addr = some l :=
  locate_of_addrNat_eq h (toNat_addr l).symm

theorem step_read (hl : l.mapped hardware = true) (hs : s.script = .read l.addr :: rest) :
    step s = .next { s with script := rest, replies := s.replies ++ [s.readLoc l] } := by
  rw [step_cons hs, ← readLoc_script s rest l]
  exact readTxn_some (locate_addr hl)

theorem step_write (hl : l.mapped hardware = true) (hcmd : l ≠ .cmd) (hs : s.script = .write l.addr v :: rest) :
    step s = .next (State.writeLoc { s with script := rest } l v) :=
  (step_cons hs).trans (writeTxn_loc (locate_addr hl) hcmd)

/-! ## The statements -/

/-- Settles O9: the reply is what the location reads as, which fits its cell (`toNat_readLoc_lt`). -/
theorem readsReturnTheCell : Obligations.ReadsReturnTheCell :=
  fun s _ l hl hs => ⟨step_read hl hs, toNat_readLoc_lt s l, readLoc_cmd s⟩

/-- Settles O10: the cell written and the cells left are `toNat_readLoc_writeLoc_self` and `readLoc_writeLoc_ne`; a write
to a location that is no read-write cell stores nothing, and the word written to `CMD` is executed. -/
theorem writesStoreLowBits : Obligations.WritesStoreLowBits := by
  intro s rest l v hl hs
  refine ⟨fun hrw => ?_, fun readOnly => ?_, ?_⟩
  · have notCmd : l ≠ .cmd := by
      rintro rfl
      exact absurd hrw Bool.false_ne_true
    obtain ⟨-, -, hdrawn, hscript, hreplies⟩ := writeLoc_rest { s with script := rest } l v
    exact ⟨_, step_write hl notCmd hs, toNat_readLoc_writeLoc_self _ hrw v,
      fun l' h => (readLoc_writeLoc_ne _ h v).trans (readLoc_script s rest l'), hscript, hreplies, hdrawn⟩
  · rcases readOnly with rfl | rfl
    · exact step_write hl nofun hs
    · exact step_write hl nofun hs
  · rintro rfl
    exact step_write_cmd hs

end Sys2Proof.Machine
end

section
/-! PROOFS. Where the machine stops and where it cannot (20_memory.md R65, R71; 60_exceptions.md R303, R311): a
transaction is refused at a reserved address or takes the machine on, and so a script without such an address runs to
its end. -/

namespace Sys2Proof.Machine

open Sys2Proof.Safety

variable {s : State}

/-! ## A transaction -/

/-- A command word takes the machine on, and no command touches the host's script (R94, R300, R303). -/
theorem exists_execute_eq_next (v : CellValue) (s : State) : ∃ t, execute v s = .next t ∧ t.script = s.script := by
  rcases execute_next v s with ⟨i, r, -, hr, he⟩ | ⟨e, he⟩
  · obtain ⟨-, hscript, -⟩ := sameBut_of_commandBody hr
    exact ⟨_, he, hscript⟩
  · exact ⟨_, he, rfl⟩

/-- The two ways a transaction ends (R65, R71): it is refused, at a reserved address, or it takes the machine on with the
rest of the script as it was. -/
theorem transact_refused_or_next (txn : Txn) (s : State) :
    (∃ a, (txn = .read a ∨ ∃ v, txn = .write a v) ∧ reservedAddr hardware a = true ∧
      transact txn s = .refused (.reservedAddress a)) ∨
    ∃ t, transact txn s = .next t ∧ t.script = s.script := by
  rcases transact_cases txn s with ⟨a, htxn, ha, ht⟩ | ⟨a, l, -, -, ht⟩ | ⟨a, v, -, -, ht⟩ | ⟨a, l, v, -, -, -, ht⟩
  · exact .inl ⟨a, htxn, reservedAddr_of_locate_eq_none ha, ht⟩
  · exact .inr ⟨_, ht, rfl⟩
  · rw [ht]
    exact .inr (exists_execute_eq_next v s)
  · obtain ⟨-, -, -, hscript, -⟩ := writeLoc_rest s l v
    exact .inr ⟨_, ht, hscript⟩

theorem not_wf_of_reserved {txn : Txn} {a : Addr} (htxn : txn = .read a ∨ ∃ v, txn = .write a v)
    (ha : reservedAddr hardware a = true) : txn.wf hardware = false := by
  rcases htxn with rfl | ⟨v, rfl⟩ <;> simp [Txn.wf, ha]

/-- A transaction on no reserved address takes the machine on. -/
theorem transact_eq_next_of_wf {txn : Txn} (hwf : txn.wf hardware = true) (s : State) :
    ∃ t, transact txn s = .next t ∧ t.script = s.script := by
  rcases transact_refused_or_next txn s with ⟨a, htxn, ha, -⟩ | next
  · exact absurd hwf (by simp [not_wf_of_reserved htxn ha])
  · exact next

/-! ## Runs -/

theorem safeScript_cons_iff {txn : Txn} {rest : List Txn} (hs : s.script = txn :: rest) :
    safeScript s ↔ txn.wf hardware = true ∧ scriptWf hardware rest = true := by
  simp [safeScript, scriptWf, hs]

/-- Progress and preservation: from a safe script a step takes the machine on, to a state whose script is the rest, and
safe (R65, R71). -/
theorem exists_step_of_safeScript (hs : safeScript s) :
    ∃ t, step s = .next t ∧ t.script = s.script.tail ∧ safeScript t := by
  cases hscript : s.script with
  | nil => exact ⟨s, step_idle hscript, hscript, hs⟩
  | cons txn rest =>
    obtain ⟨hwf, hrest⟩ := (safeScript_cons_iff hscript).mp hs
    obtain ⟨t, ht, htail⟩ := transact_eq_next_of_wf hwf { s with script := rest }
    exact ⟨t, (step_cons hscript).trans ht, htail, by rwa [safeScript, htail]⟩

/-- A run goes on as its first step does. -/
theorem run_succ {t : State} (h : step s = .next t) (k : Nat) : core.run (k + 1) s = core.run k t := by
  have hcore : core.step s = .next t := h
  simp only [Host.Core.run, hcore]

/-! ## The statements -/

/-- Settles O16: by induction on the depth, for all states at once; each step is `exists_step_of_safeScript`. -/
theorem safeScriptsNeverStop : Obligations.SafeScriptsNeverStop := by
  intro k
  induction k with
  | zero => exact fun s _ => ⟨s, rfl, rfl⟩
  | succ k ih =>
    intro s hs
    obtain ⟨t, hstep, htail, hsafe⟩ := exists_step_of_safeScript hs
    obtain ⟨u, hrun, hdrop⟩ := ih t hsafe
    exact ⟨u, (run_succ hstep k).trans hrun, by rw [hdrop, htail, List.drop_tail]⟩

/-- Settles O17: there is no fault to stop with, and of what a transaction can do only the first is a refusal
(`transact_refused_or_next`). -/
theorem stopsOnlyAtReservedAddresses : Obligations.StopsOnlyAtReservedAddresses := by
  refine fun s => ⟨nofun, fun r h => ?_⟩
  cases hscript : s.script with
  | nil => exact absurd ((step_idle hscript).symm.trans h) (by simp)
  | cons txn rest =>
    rw [step_cons hscript] at h
    rcases transact_refused_or_next txn { s with script := rest } with ⟨a, htxn, ha, ht⟩ | ⟨t, ht, -⟩
    · obtain rfl : r = .reservedAddress a := by simpa using h.symm.trans ht
      refine ⟨a, rest, ha, rfl, ?_⟩
      rcases htxn with rfl | ⟨v, rfl⟩
      · exact .inl rfl
      · exact .inr ⟨v, rfl⟩
    · exact absurd (ht.symm.trans h) (by simp)

end Sys2Proof.Machine
end

section
/-! PROOFS. Which words are commands (30_encoding.md R90 to R95): the words the decoder accepts, the words of the
encoder, the legal words of R94 and the words that match a row of the table are the same words. -/

namespace Sys2Proof

open Sys2Proof.Machine

/-! ## The four fields of a word (R90) -/

theorem toNat_opcField (v : CellValue) : (opcField v).toNat = v.toNat % 256 := by
  simp [opcField]

theorem toNat_aField (v : CellValue) : (aField v).toNat = v.toNat / 256 % 256 := by
  simp [aField, Nat.shiftRight_eq_div_pow]

theorem toNat_bField (v : CellValue) : (bField v).toNat = v.toNat / 65536 % 256 := by
  simp [bField, Nat.shiftRight_eq_div_pow]

theorem toNat_zField (v : CellValue) : (zField v).toNat = v.toNat / 16777216 := by
  simp only [zField, BitVec.extractLsb'_toNat, Nat.shiftRight_eq_div_pow]
  omega

/-- The four fields are the whole word. -/
theorem eq_of_fields_eq {v w : CellValue} (ho : opcField v = opcField w) (ha : aField v = aField w)
    (hb : bField v = bField w) (hz : zField v = zField w) : v = w := by
  rw [← BitVec.toNat_inj] at ho ha hb hz ⊢
  simp only [toNat_opcField, toNat_aField, toNat_bField, toNat_zField] at ho ha hb hz
  omega

/-- A word without reserved bits is the command word of its other three fields. -/
theorem commandWord_fields {v : CellValue} (hz : zField v = 0) :
    commandWord (opcField v) (aField v) (bField v) = v :=
  eq_of_fields_eq (Laws.opcField_commandWord ..) (aField_commandWord ..) (bField_commandWord ..)
    ((Laws.zField_commandWord ..).trans hz.symm)

/-! ## Legal words (R94) -/

/-- The operation codes of R92. -/
def assignedOpcodes : List Nat :=
  [0x00, 0x01, 0x10, 0x20, 0x21, 0x30, 0x31, 0x32, 0x40, 0x41, 0x42, 0x50, 0x51, 0x60, 0x61, 0x62, 0x70, 0x71]

/-- The operation codes of the commands that take `A` (R92). -/
def opcodesTakingA : List Nat := [0x10, 0x40, 0x41]

/-- The operation codes of the commands that take `B` (R92). -/
def opcodesTakingB : List Nat := [0x10, 0x40, 0x41, 0x42]

/-- No reserved bit, an assigned operation code, and zero in every field the command does not take (R94). -/
structure LegalWord (v : CellValue) : Prop where
  zField_eq : zField v = 0
  assigned : (opcField v).toNat ∈ assignedOpcodes
  aField_eq : (opcField v).toNat ∉ opcodesTakingA → aField v = 0
  bField_eq : (opcField v).toNat ∉ opcodesTakingB → bField v = 0

/-- What the decoder may answer for a word: a legal word's command, the one the word encodes, or the rejection of an
illegal word. -/
def CorrectAnswer (v : CellValue) : Except IllegalWord Instr → Prop
  | .ok i => LegalWord v ∧ encode i = v
  | .error _ => ¬ LegalWord v

section
variable {v : CellValue} {opc : Nat} (hz : zField v = 0) (ho : (opcField v).toNat = opc)
include hz ho

theorem encode_eq_of_fields {i : Instr} (hi : encode i = commandWord (BitVec.ofNat 8 opc) (aField v) (bField v)) :
    encode i = v := by
  rw [hi, ← ho, BitVec.ofNat_toNat, BitVec.setWidth_eq, commandWord_fields hz]

theorem correctAnswer_decodeBare {i : Instr} (hassigned : opc ∈ assignedOpcodes) (hnoA : opc ∉ opcodesTakingA)
    (hnoB : opc ∉ opcodesTakingB) (hi : encode i = commandWord (BitVec.ofNat 8 opc) 0 0) :
    CorrectAnswer v (decodeBare v i) := by
  subst opc
  unfold decodeBare
  split
  next ha => exact fun legal => ha (legal.aField_eq hnoA)
  next ha =>
    split
    next hb => exact fun legal => hb (legal.bField_eq hnoB)
    next hb =>
      rw [not_not] at ha hb
      exact ⟨⟨hz, hassigned, fun _ => ha, fun _ => hb⟩, encode_eq_of_fields hz rfl (by rw [hi, ha, hb])⟩

theorem correctAnswer_decodeB {mk : Byte → Instr} (hassigned : opc ∈ assignedOpcodes) (hnoA : opc ∉ opcodesTakingA)
    (hB : opc ∈ opcodesTakingB) (hmk : ∀ b, encode (mk b) = commandWord (BitVec.ofNat 8 opc) 0 b) :
    CorrectAnswer v (decodeB v mk) := by
  subst opc
  unfold decodeB
  split
  next ha => exact fun legal => ha (legal.aField_eq hnoA)
  next ha =>
    rw [not_not] at ha
    exact ⟨⟨hz, hassigned, fun _ => ha, absurd hB⟩, encode_eq_of_fields hz rfl (by rw [hmk, ha])⟩

theorem correctAnswer_decodeAB {mk : Byte → Byte → Instr} (hassigned : opc ∈ assignedOpcodes)
    (hA : opc ∈ opcodesTakingA) (hB : opc ∈ opcodesTakingB)
    (hmk : ∀ a b, encode (mk a b) = commandWord (BitVec.ofNat 8 opc) a b) : CorrectAnswer v (decodeAB v mk) := by
  subst opc
  exact ⟨⟨hz, hassigned, absurd hA, absurd hB⟩, encode_eq_of_fields hz rfl (hmk _ _)⟩

end

/-- The one walk through the decoder: each operation code has the form of its command (bare, `B`, or `A` and `B`), and
the codes that are left are not assigned. -/
theorem correctAnswer_decode (v : CellValue) : CorrectAnswer v (decode v) := by
  unfold decode
  split
  next hz => exact fun legal => hz legal.zField_eq
  next hz =>
    rw [not_not] at hz
    split
    case h_19 =>
      intro legal
      have assigned := legal.assigned
      simp only [assignedOpcodes, List.mem_cons, List.not_mem_nil, or_false] at assigned
      tauto
    -- GFMUL, INTERP and SPLIT
    case h_3 ho | h_9 ho | h_10 ho =>
      exact correctAnswer_decodeAB hz ho (by decide) (by decide) (by decide) fun _ _ => rfl
    -- SRECOVER
    case h_11 ho => exact correctAnswer_decodeB hz ho (by decide) (by decide) (by decide) fun _ => rfl
    all_goals
      next ho => exact correctAnswer_decodeBare hz ho (by decide) (by decide) (by decide) rfl

theorem encode_of_decode {v : CellValue} {i : Instr} (h : decode v = .ok i) : encode i = v := by
  have answer := correctAnswer_decode v
  rw [h] at answer
  exact answer.2

/-- The decoder accepts exactly the legal words. -/
theorem exists_decode_iff_legalWord (v : CellValue) : (∃ i, decode v = .ok i) ↔ LegalWord v := by
  have answer := correctAnswer_decode v
  cases h : decode v with
  | ok i =>
    rw [h] at answer
    exact iff_of_true ⟨i, rfl⟩ answer.1
  | error e =>
    rw [h] at answer
    exact iff_of_false nofun answer

/-- `LegalWord` is the complement of the illegality of R94 as it is written on the number. -/
theorem legalWord_iff_toNat (v : CellValue) :
    LegalWord v ↔ v.toNat / 16777216 = 0 ∧ v.toNat % 256 ∈ assignedOpcodes ∧
      (v.toNat % 256 ∉ opcodesTakingA → v.toNat / 256 % 256 = 0) ∧
      (v.toNat % 256 ∉ opcodesTakingB → v.toNat / 65536 % 256 = 0) := by
  rw [← toNat_opcField, ← toNat_aField, ← toNat_bField, ← toNat_zField]
  have eq_zero_iff (x : Byte) : x.toNat = 0 ↔ x = 0 := BitVec.toNat_inj (y := 0)
  simp only [eq_zero_iff]
  exact ⟨fun ⟨hz, ho, ha, hb⟩ => ⟨hz, ho, ha, hb⟩, fun ⟨hz, ho, ha, hb⟩ => ⟨hz, ho, ha, hb⟩⟩

/-! ## The mask/match table (R95) -/

/-- The rule of R95 for the masks and the patterns, row by row: `OPC` and `Z` are covered, and so is each of `A` and `B`
that the command does not take, and there the pattern is zero. -/
theorem mask_pattern_of_mem_opcodeRows : ∀ r ∈ opcodeRows,
    (opcField r.mask = 0xFF ∧ (opcField r.pattern).toNat ∈ assignedOpcodes) ∧
      (zField r.mask = 0xFF ∧ zField r.pattern = 0) ∧
      ((opcField r.pattern).toNat ∉ opcodesTakingA → aField r.mask = 0xFF ∧ aField r.pattern = 0) ∧
      ((opcField r.pattern).toNat ∉ opcodesTakingB → bField r.mask = 0xFF ∧ bField r.pattern = 0) := by
  decide

/-- The rows differ in bits 7:0 (R95). -/
theorem nodup_opcodes_of_opcodeRows : (opcodeRows.map fun r => opcField r.pattern).Nodup := by decide

/-- Where the mask is all ones, the word agrees with the pattern. -/
theorem field_eq_of_and_eq {x m p : Byte} (h : x &&& m = p) (hm : m = 0xFF) : x = p := by
  rw [← h, hm]
  exact BitVec.and_allOnes.symm

section
variable {r : OpcodeRow} {v : CellValue} (hr : r ∈ opcodeRows) (hmatch : r.matches v = true)
include hmatch

theorem and_fields_of_matches :
    opcField v &&& opcField r.mask = opcField r.pattern ∧ aField v &&& aField r.mask = aField r.pattern ∧
      bField v &&& bField r.mask = bField r.pattern ∧ zField v &&& zField r.mask = zField r.pattern := by
  have h : v &&& r.mask = r.pattern := beq_iff_eq.mp hmatch
  simp only [← h, opcField, aField, bField, zField, BitVec.extractLsb'_and, and_self]

include hr

theorem opcField_eq_of_matches : opcField v = opcField r.pattern :=
  field_eq_of_and_eq (and_fields_of_matches hmatch).1 (mask_pattern_of_mem_opcodeRows r hr).1.1

theorem legalWord_of_matches : LegalWord v := by
  obtain ⟨-, hAnd, hBnd, hZnd⟩ := and_fields_of_matches hmatch
  obtain ⟨⟨-, hassigned⟩, ⟨hzmask, hzpat⟩, hA, hB⟩ := mask_pattern_of_mem_opcodeRows r hr
  rw [← opcField_eq_of_matches hr hmatch] at hassigned hA hB
  exact ⟨(field_eq_of_and_eq hZnd hzmask).trans hzpat, hassigned,
    fun h => (field_eq_of_and_eq hAnd (hA h).1).trans (hA h).2,
    fun h => (field_eq_of_and_eq hBnd (hB h).1).trans (hB h).2⟩

theorem eq_of_matches {q : OpcodeRow} (hq : q ∈ opcodeRows) (hqmatch : q.matches v = true) : r = q :=
  List.inj_on_of_nodup_map nodup_opcodes_of_opcodeRows hr hq
    ((opcField_eq_of_matches hr hmatch).symm.trans (opcField_eq_of_matches hq hqmatch))

end

/-- The laws of the single commands, together. -/
theorem encodesItsRow : ∀ i : Instr, Laws.EncodesItsRow.Statement i
  | .nop => Laws.EncodesItsRow.nop
  | .clr => Laws.EncodesItsRow.clr
  | .gfmul a b => Laws.EncodesItsRow.gfmul a b
  | .wenc => Laws.EncodesItsRow.wenc
  | .wdec => Laws.EncodesItsRow.wdec
  | .rspoly => Laws.EncodesItsRow.rspoly
  | .rscreate => Laws.EncodesItsRow.rscreate
  | .rsverify => Laws.EncodesItsRow.rsverify
  | .interp q n => Laws.EncodesItsRow.interp q n
  | .split c t => Laws.EncodesItsRow.split c t
  | .srecover t => Laws.EncodesItsRow.srecover t
  | .fenc => Laws.EncodesItsRow.fenc
  | .fdec => Laws.EncodesItsRow.fdec
  | .shenc => Laws.EncodesItsRow.shenc
  | .shdec => Laws.EncodesItsRow.shdec
  | .check1 => Laws.EncodesItsRow.check1
  | .generate => Laws.EncodesItsRow.generate
  | .recover => Laws.EncodesItsRow.recover

/-- The word of a command matches the row that bears the command's mnemonic. -/
theorem exists_row_matches_of_decode {v : CellValue} {i : Instr} (h : decode v = .ok i) :
    ∃ r ∈ opcodeRows, r.mnemonic = i.mnemonic ∧ r.matches v = true := by
  obtain ⟨-, -, -, row⟩ := encodesItsRow i
  rwa [encode_of_decode h] at row

/-! ## The statements -/

/-- Settles O1: `encode_of_decode` one way, `decode_encode` the other. -/
theorem decodeExactlyInvertsEncode : Obligations.DecodeExactlyInvertsEncode :=
  fun _ i => ⟨encode_of_decode, fun h => h ▸ decode_encode i⟩

/-- Settles O2: a word that matches a row is legal, so it decodes (`exists_decode_iff_legalWord`); the word of a command
matches its own row, and by the operation code no other. -/
theorem maskMatchTableDecides : Obligations.MaskMatchTableDecides := by
  refine ⟨fun v => ⟨fun ⟨i, h⟩ => ?_, fun ⟨r, hr, hmatch⟩ => ?_⟩, fun v i h r hr hmatch => ?_,
    fun v r q hr hq hrmatch hqmatch => eq_of_matches hr hrmatch hq hqmatch⟩
  · obtain ⟨r, hr, -, hmatch⟩ := exists_row_matches_of_decode h
    exact ⟨r, hr, hmatch⟩
  · exact (exists_decode_iff_legalWord v).mpr (legalWord_of_matches hr hmatch)
  · obtain ⟨q, hq, hname, hqmatch⟩ := exists_row_matches_of_decode h
    rwa [eq_of_matches hr hmatch hq hqmatch]

/-- Settles O3: by `exists_decode_iff_legalWord`, a word is run when it is legal and fails with `IllegalCommand` when it
is not. -/
theorem illegalWordsExactly : Obligations.IllegalWordsExactly := by
  intro v opc a b z illegal
  have illegal_iff : illegal ↔ ¬ LegalWord v := by
    rw [legalWord_iff_toNat]
    simp only [not_and_or, Classical.not_imp]
    exact Iff.rfl
  refine ⟨fun h s => ?_, fun h => ?_⟩
  · rcases execute_cases v s with ⟨i, hi, -⟩ | ⟨-, -, he⟩
    · exact absurd ((exists_decode_iff_legalWord v).mp ⟨i, hi⟩) (illegal_iff.mp h)
    · exact he
  · obtain ⟨i, hi⟩ := (exists_decode_iff_legalWord v).mpr (not_not.mp (mt illegal_iff.mpr h))
    exact ⟨i, hi, execute_of_decode hi⟩

/-- Settles O4: by O1 each of the words is compared with the encoding of its command. -/
theorem writtenWordsDecode : Obligations.WrittenWordsDecode := by
  simp only [Obligations.WrittenWordsDecode, decodeExactlyInvertsEncode _ _]
  decide

end Sys2Proof
end

section
/-! PROOFS. No result depends on the table entries no rule reads (93_implementation_defined.md U1): `LOG` is read of
non-zero elements only, because the x values in use are pairwise different (R182), and `EXP` at indices reduced modulo
255 (R121). -/

namespace Sys2Proof.Safety

open Sys2Proof.Machine

/-! ## Functions that read neither field table -/

/-- The function answers the same whatever stands in `LOG` and `EXP`. -/
def IgnoresFieldTables {α : Type} (f : Config → α) : Prop :=
  ∀ (C : Config) (log exp : Byte → Byte), f { C with log := log, exp := exp } = f C

theorem hmac_ignoresFieldTables : IgnoresFieldTables hmac := fun _ _ _ => rfl

theorem splitPoints_ignoresFieldTables : IgnoresFieldTables splitPoints := fun _ _ _ => rfl

theorem feistelEncrypt_ignoresFieldTables : IgnoresFieldTables feistelEncrypt := fun _ _ _ => rfl

theorem feistelDecrypt_ignoresFieldTables : IgnoresFieldTables feistelDecrypt := fun _ _ _ => rfl

theorem shareEncode_ignoresFieldTables : IgnoresFieldTables shareEncode := fun _ _ _ => rfl

theorem decodeRow_ignoresFieldTables : IgnoresFieldTables decodeRow := fun _ _ _ => rfl

theorem decodeRows_ignoresFieldTables : IgnoresFieldTables decodeRows := by
  intro C log exp
  funext rows
  induction rows with
  | nil => rfl
  | cons row rows ih => simp only [decodeRows, ih, decodeRow_ignoresFieldTables C log exp]

/-! ## Results passed on -/

theorem guard_congr {α : Type} {p : Prop} [Decidable p] {e : CmdError} {x y : Except CmdError α}
    (h : ¬ p → x = y) : (if p then .error e else x) = if p then .error e else y := by
  split
  next => rfl
  next hp => exact h hp

theorem bind_congr_ok {α β : Type} {r : Except CmdError α} {f g : α → Except CmdError β}
    (h : ∀ a, r = .ok a → f a = g a) : r.bind f = r.bind g := by
  cases r with
  | error e => rfl
  | ok a => exact h a rfl

/-! ## Distinct x values -/

theorem ofNat8_inj_of_lt {i j : Nat} (hi : i < 256) (hj : j < 256) (h : BitVec.ofNat 8 i = BitVec.ofNat 8 j) :
    i = j := by
  have := congrArg BitVec.toNat h
  simp only [BitVec.toNat_ofNat] at this
  omega

/-- The x values of the points a split interpolates through are 0 to `t-3`, 254 and 255 (R185). -/
theorem nodup_splitPoints (C : Config) (drawn : Nat) {t : Nat} (secret : List Byte) (ht : t ≤ 16) :
    ((splitPoints C drawn t secret).map Prod.fst).Nodup := by
  have xs : (splitPoints C drawn t secret).map Prod.fst =
      (List.range (t - 2) ++ [254, 255]).map (BitVec.ofNat 8) := by
    simp [splitPoints, randomShares, List.map_fst_zip, digestIndex, secretIndex]
  have small : ∀ i ∈ List.range (t - 2) ++ [254, 255], i < 256 := by
    intro i hi
    simp only [List.mem_append, List.mem_range, List.mem_cons, List.not_mem_nil, or_false] at hi
    omega
  rw [xs]
  refine List.Nodup.map_on (fun i hi j hj => ofNat8_inj_of_lt (small i hi) (small j hj)) ?_
  refine List.nodup_range.append (by decide) fun i hi hj => ?_
  simp only [List.mem_range, List.mem_cons, List.not_mem_nil, or_false] at hi hj
  omega

/-- What keeps the x values of a recovery apart: every group has one entry, and every member index stands in it once
(R264). -/
structure DistinctIndices (gs : List Group) : Prop where
  groups : (gs.map Group.gi).Nodup
  members : ∀ g ∈ gs, (g.members.map Prod.fst).Nodup

theorem distinctIndices_cons {g : Group} {gs : List Group} :
    DistinctIndices (g :: gs) ↔
      g.gi ∉ gs.map Group.gi ∧ (g.members.map Prod.fst).Nodup ∧ DistinctIndices gs := by
  constructor
  · rintro ⟨hgi, hmem⟩
    obtain ⟨hg, hgs⟩ := List.nodup_cons.mp hgi
    obtain ⟨hm, hms⟩ := List.forall_mem_cons.mp hmem
    exact ⟨hg, hm, hgs, hms⟩
  · rintro ⟨hg, hm, hgs, hms⟩
    exact ⟨List.nodup_cons.mpr ⟨hg, hgs⟩, List.forall_mem_cons.mpr ⟨hm, hms⟩⟩

/-- Where a share goes: into the first group if it has the share's index, and then as a new member of it, or further
down (R264). -/
theorem addShare_cons_ok {h : Share} {g : Group} {gs gs' : List Group} :
    addShare h (g :: gs) = .ok gs' ↔
      (g.gi = h.gi ∧ h.mt = g.mt ∧ h.mi ∉ g.members.map Prod.fst ∧
          gs' = { g with members := g.members ++ [(h.mi, h.value)] } :: gs) ∨
        (g.gi ≠ h.gi ∧ ∃ rest, addShare h gs = .ok rest ∧ gs' = g :: rest) := by
  rw [addShare]
  split
  next hgi =>
    simp only [guard_eq_ok, ok_eq_ok]
    simp [hgi]
  next hgi => simp [hgi, map_eq_ok]

/-- A share brings in no group index but its own. -/
theorem gi_of_addShare {h : Share} {gs gs' : List Group} (hadd : addShare h gs = .ok gs') :
    ∀ i ∈ gs'.map Group.gi, i = h.gi ∨ i ∈ gs.map Group.gi := by
  induction gs generalizing gs' with
  | nil =>
    obtain rfl := ok_eq_ok.mp hadd
    simp
  | cons g gs ih =>
    rcases addShare_cons_ok.mp hadd with ⟨-, -, -, rfl⟩ | ⟨-, rest, hrest, rfl⟩
    · exact fun i hi => .inr hi
    · intro i hi
      rcases List.mem_cons.mp hi with rfl | hi
      · exact .inr List.mem_cons_self
      · exact (ih hrest i hi).imp_right (List.mem_cons_of_mem g.gi)

theorem addShare_distinctIndices {h : Share} {gs gs' : List Group} (hadd : addShare h gs = .ok gs')
    (hgs : DistinctIndices gs) : DistinctIndices gs' := by
  induction gs generalizing gs' with
  | nil =>
    obtain rfl := ok_eq_ok.mp hadd
    exact ⟨by simp, by simp⟩
  | cons g gs ih =>
    obtain ⟨hg, hm, hrec⟩ := distinctIndices_cons.mp hgs
    rcases addShare_cons_ok.mp hadd with ⟨-, -, hnew, rfl⟩ | ⟨hne, rest, hrest, rfl⟩
    · refine distinctIndices_cons.mpr ⟨hg, ?_, hrec⟩
      simpa using hm.concat hnew
    · refine distinctIndices_cons.mpr ⟨fun hmem => ?_, hm, ih hrest hrec⟩
      exact (gi_of_addShare hrest _ hmem).elim hne hg

theorem groupShares_distinctIndices {hs : List Share} {gs gs' : List Group} (hgroup : groupShares hs gs = .ok gs')
    (hgs : DistinctIndices gs) : DistinctIndices gs' := by
  induction hs generalizing gs with
  | nil =>
    obtain rfl := ok_eq_ok.mp hgroup
    exact hgs
  | cons h hs ih =>
    obtain ⟨gs1, hadd, hrest⟩ := groupShares_cons_ok.mp hgroup
    exact ih hrest (addShare_distinctIndices hadd hgs)

theorem DistinctIndices.sublist {gs used : List Group} (hgs : DistinctIndices gs) (hsub : used.Sublist gs) :
    DistinctIndices used :=
  ⟨hgs.groups.sublist (hsub.map _), fun g hg => hgs.members g (hsub.subset hg)⟩

theorem selectGroups_sublist {gt : Nat} {gs used : List Group} (h : selectGroups gt gs = .ok used) :
    used.Sublist gs := by
  obtain ⟨-, -, rfl⟩ := selectGroups_eq_ok.mp h
  exact (List.take_sublist _ _).trans List.filter_sublist

theorem nodup_map_setWidth {l : List (BitVec 4)} (hl : l.Nodup) : (l.map (BitVec.setWidth 8)).Nodup :=
  hl.map_on fun i _ j _ hij => by
    rw [← BitVec.toNat_inj] at hij ⊢
    simp only [BitVec.toNat_setWidth] at hij
    omega

/-- The x values on the group level are the indices of the used groups (R266). -/
theorem map_fst_of_recoverGroups {C : Config} {n : Nat} {gs : List Group} {pts : List (Byte × List Byte)}
    (h : recoverGroups C n gs = .ok pts) : pts.map Prod.fst = (gs.map Group.gi).map (BitVec.setWidth 8) := by
  induction gs generalizing pts with
  | nil =>
    obtain rfl := ok_eq_ok.mp h
    rfl
  | cons g gs ih =>
    obtain ⟨p, ps, hp, hps, rfl⟩ := recoverGroups_cons_ok.mp h
    obtain ⟨y, -, rfl⟩ := map_eq_ok.mp hp
    simp [ih hps]

/-! ## Two configurations that differ at most in the entries no rule reads -/

namespace AgreeOffUnread

variable {C D : Config} (h : AgreeOffUnread C D)
include h

theorem eq_of_ignoresFieldTables {α : Type} {f : Config → α} (hf : IgnoresFieldTables f) : f C = f D := by
  have rest : C = { D with log := C.log, exp := C.exp } := by
    rw [← h.gen, ← h.baseIterations, ← h.passMax, ← h.ports]
  rw [rest, hf]

/-- An index modulo 255 is never 255 (R121). -/
theorem expMod_eq : expMod C = expMod D := by
  funext i
  refine h.exp _ fun h255 => ?_
  have := ofNat8_inj_of_lt (i := i % 255) (j := 255) (by omega) (by omega) h255
  omega

theorem gfMul_eq (a b : Byte) : gfMul C a b = gfMul D a b := by
  unfold gfMul
  split
  next => rfl
  next hne =>
    obtain ⟨ha, hb⟩ := not_or.mp hne
    rw [h.expMod_eq, h.log a ha, h.log b hb]

/-! ### Interpolation -/

theorem logWeight_eq {q xi : Byte} {others : List Byte} (hq : q ∉ others) (hxi : xi ∉ others) :
    logWeight C q xi others = logWeight D q xi others := by
  refine List.foldl_ext _ _ _ fun lw xj hxj => ?_
  have difference {x : Byte} (hx : x ∉ others) : C.log (x ^^^ xj) = D.log (x ^^^ xj) :=
    h.log _ fun h0 => hx (BitVec.xor_eq_zero_iff.mp h0 ▸ hxj)
  rw [difference hq, difference hxi]

theorem logWeights_eq {q : Byte} {xs : List Byte} (hq : q ∉ xs) (hxs : xs.Nodup) :
    logWeights C xs q = logWeights D xs q := by
  refine List.map_congr_left fun i hi => ?_
  have hi : i < xs.length := List.mem_range.mp hi
  have own : xs.getD i 0 ∉ xs.eraseIdx i := by
    rw [List.getD_eq_getElem _ _ hi, ← hxs.erase_getElem i hi]
    exact hxs.not_mem_erase
  exact h.logWeight_eq (fun hmem => hq (List.mem_of_mem_eraseIdx hmem)) own

theorem laneSum_eq (weights : List Nat) (bytes : List Byte) : laneSum C weights bytes = laneSum D weights bytes := by
  refine List.foldl_ext _ _ _ fun acc p _ => ?_
  split
  next => rfl
  next hne => rw [h.expMod_eq, h.log p.2 hne]

/-- The differences whose logarithms are taken are non-zero: the x values are pairwise different (R182), and none of
them is the query, or the shortcut of R181 would have answered. -/
theorem interpolate_eq {pts : List (Byte × List Byte)} (hpts : (pts.map Prod.fst).Nodup) (q : Byte) (len : Nat) :
    interpolate C pts q len = interpolate D pts q len := by
  cases hfind : pts.find? (fun p => p.1 == q) with
  | some p => simp only [interpolate, hfind]
  | none =>
    have hq : q ∉ pts.map Prod.fst := by
      rw [List.find?_eq_none] at hfind
      intro hmem
      obtain ⟨p, hp, rfl⟩ := List.mem_map.mp hmem
      exact hfind p hp (beq_self_eq_true _)
    simp only [interpolate, hfind, h.logWeights_eq hq hpts, h.laneSum_eq]

/-! ### Split and recover -/

theorem shamirSplit_eq (drawn count : Nat) {t : Nat} (secret : List Byte) (ht : t ≤ 16) :
    shamirSplit C drawn count t secret = shamirSplit D drawn count t secret := by
  unfold shamirSplit
  rw [h.eq_of_ignoresFieldTables splitPoints_ignoresFieldTables]
  simp only [h.interpolate_eq (nodup_splitPoints D drawn secret ht)]

theorem shamirRecover_eq {t : Nat} {pts : List (Byte × List Byte)} (len : Nat)
    (hpts : t ≠ 1 → ((pts.take t).map Prod.fst).Nodup) : shamirRecover C t pts len = shamirRecover D t pts len := by
  unfold shamirRecover
  split
  next => rfl
  next ht =>
    simp only [h.interpolate_eq (hpts ht), h.eq_of_ignoresFieldTables hmac_ignoresFieldTables]

/-! ### Generation -/

theorem memberMnemonics_eq (base : Share) (drawn g : Nat) {groups : List (Nat × Nat)} (gsh : List (List Byte))
    (hgroups : ∀ p ∈ groups, p.2 ≤ 16) :
    memberMnemonics C base drawn g groups gsh = memberMnemonics D base drawn g groups gsh := by
  induction groups generalizing drawn g gsh with
  | nil => cases gsh <;> rfl
  | cons group groups ih =>
    obtain ⟨hthreshold, hrest⟩ := List.forall_mem_cons.mp hgroups
    cases gsh with
    | nil => rfl
    | cons y gsh =>
      simp only [memberMnemonics, h.shamirSplit_eq _ _ _ hthreshold, ih _ _ _ hrest,
        h.eq_of_ignoresFieldTables shareEncode_ignoresFieldTables]

theorem generate_eq (drawn : Nat) (ms : List Byte) (ie : BitVec 5) (ident : BitVec 15) (pp : List Byte)
    {gt : BitVec 5} (gc : BitVec 5) {groups : List (Nat × Nat)} (hgt : gt.toNat ≤ 16)
    (hgroups : ∀ p ∈ groups, p.2 ≤ 16) :
    generate C drawn ms ie ident pp gt gc groups = generate D drawn ms ie ident pp gt gc groups := by
  simp only [generate, h.memberMnemonics_eq _ _ _ _ hgroups, h.shamirSplit_eq _ _ _ hgt,
    h.eq_of_ignoresFieldTables feistelEncrypt_ignoresFieldTables]

/-! ### Recovery -/

theorem recoverGroup_eq (n : Nat) {g : Group} (hg : (g.members.map Prod.fst).Nodup) :
    recoverGroup C n g = recoverGroup D n g := by
  unfold recoverGroup
  rw [h.shamirRecover_eq n fun _ => ?_]
  have xs : ((g.members.take g.mt.toNat).map (fun m => (m.1.setWidth 8, m.2))).map Prod.fst =
      ((g.members.map Prod.fst).take g.mt.toNat).map (BitVec.setWidth 8) := by
    simp [Function.comp_def]
  rw [List.map_take, xs]
  exact (nodup_map_setWidth (hg.sublist (List.take_sublist _ _))).sublist (List.take_sublist _ _)

theorem recoverGroups_eq (n : Nat) {gs : List Group} (hgs : DistinctIndices gs) :
    recoverGroups C n gs = recoverGroups D n gs := by
  induction gs with
  | nil => rfl
  | cons g gs ih =>
    obtain ⟨-, hg, hrest⟩ := distinctIndices_cons.mp hgs
    simp only [recoverGroups, h.recoverGroup_eq n hg, ih hrest]

theorem recoverSecret_eq (gt n : Nat) (ident : BitVec 15) (ie : BitVec 5) (pp : List Byte) {used : List Group}
    (hused : DistinctIndices used) :
    recoverSecret C gt n ident ie pp used = recoverSecret D gt n ident ie pp used := by
  unfold recoverSecret
  rw [h.recoverGroups_eq n hused, h.eq_of_ignoresFieldTables feistelDecrypt_ignoresFieldTables]
  refine bind_congr_ok fun pts hpts => ?_
  have xs : (pts.map Prod.fst).Nodup := by
    rw [map_fst_of_recoverGroups hpts]
    exact nodup_map_setWidth hused.groups
  rw [h.shamirRecover_eq n fun _ => xs.sublist ((List.take_sublist _ _).map _)]

theorem recoverShares_eq (pp : List Byte) (h0 : Share) (hs : List Share) :
    recoverShares C pp h0 hs = recoverShares D pp h0 hs := by
  refine guard_congr fun _ => guard_congr fun _ => bind_congr_ok fun gs hgroup => bind_congr_ok fun used hused => ?_
  have distinct : DistinctIndices gs := groupShares_distinctIndices hgroup ⟨by simp, by simp⟩
  exact h.recoverSecret_eq _ _ _ _ _ (distinct.sublist (selectGroups_sublist hused))

/-! ### Commands -/

theorem gfmulBody_eq (a b : Byte) (s : State) : gfmulBody C a b s = gfmulBody D a b s := by
  simp only [gfmulBody, h.gfMul_eq]

theorem interpBody_eq (q n : Byte) (s : State) : interpBody C q n s = interpBody D q n s := by
  refine guard_congr fun _ => guard_congr fun _ => guard_congr fun hxs => ?_
  rw [Bool.not_eq_true', Bool.not_eq_false, distinct_iff] at hxs
  rw [h.interpolate_eq hxs]

theorem splitBody_eq (c k : Byte) (s : State) : splitBody C c k s = splitBody D c k s := by
  refine guard_congr fun hk => guard_congr fun _ => ?_
  rw [Bool.not_eq_true', Bool.not_eq_false, thresholdOk_iff] at hk
  rw [h.shamirSplit_eq _ _ _ (by omega)]

theorem srecoverBody_eq (k : Byte) (s : State) : srecoverBody C k s = srecoverBody D k s := by
  refine guard_congr fun hk => guard_congr fun _ => guard_congr fun hxs => ?_
  rw [Bool.not_eq_true', Bool.not_eq_false, inRange_iff] at hk
  simp only [Bool.and_eq_true, decide_eq_true_eq, Bool.not_eq_true', not_and, Bool.not_eq_false, distinct_iff] at hxs
  rw [h.shamirRecover_eq _ fun ht => ?_]
  exact (hxs (by omega)).sublist ((List.take_sublist _ _).map _)

theorem generateBody_eq (s : State) : generateBody C s = generateBody D s := by
  unfold generateBody
  rw [h.passMax]
  refine guard_congr fun hgt => guard_congr fun _ => guard_congr fun hgroups => guard_congr fun _ => ?_
  simp only [Bool.not_eq_true', Bool.not_eq_false, thresholdOk_iff, List.all_eq_true] at hgt hgroups
  rw [h.generate_eq _ _ _ _ _ _ (by omega) fun p hp => (hgroups p hp).2.1.trans (hgroups p hp).2.2]

theorem recoverBody_eq (s : State) : recoverBody C s = recoverBody D s := by
  unfold recoverBody
  rw [h.passMax, h.eq_of_ignoresFieldTables decodeRows_ignoresFieldTables]
  refine guard_congr fun _ => guard_congr fun _ => guard_congr fun _ => bind_congr_ok fun shares _ => ?_
  cases shares with
  | nil => rfl
  | cons h0 hs => simp only [h.recoverShares_eq]

end AgreeOffUnread

/-- Settles O21: the commands of the field, the Shamir engine and the orchestrator by the lemmas above; no other
command reads a field table at all. -/
theorem unreadTableEntriesDoNotMatter : Obligations.UnreadTableEntriesDoNotMatter := by
  intro C D h i s
  cases i with
  | gfmul a b => exact h.gfmulBody_eq a b s
  | interp q n => exact h.interpBody_eq q n s
  | split c t => exact h.splitBody_eq c t s
  | srecover t => exact h.srecoverBody_eq t s
  | generate => exact h.generateBody_eq s
  | recover => exact h.recoverBody_eq s
  | nop | clr | wenc | wdec | rspoly | rscreate | rsverify | fenc | fdec | shenc | shdec | check1 =>
    exact congrFun (h.eq_of_ignoresFieldTables (f := fun C => commandBody C _) fun _ _ _ => rfl) s

end Sys2Proof.Safety
end

section
/-! PROOFS. The field of the default tables (40_gf256.md R122, R123): `EXP` lists the powers of the generator 0x03 and
`LOG` is its inverse, so the sum of two logarithms modulo 255 stands for a product by shift and add. -/

namespace Sys2Proof.Machine

open Sys2Proof.Safety

/-! ## Products by shift and add -/

/-- A term selected by a bit, added to the exclusive or of two sums. -/
theorem select_xor (p q : Bool) (x y t : Byte) :
    (if p ^^ q then (x ^^^ y) ^^^ t else x ^^^ y) = (if p then x ^^^ t else x) ^^^ (if q then y ^^^ t else y) := by
  have cancel : (x ^^^ t) ^^^ (y ^^^ t) = x ^^^ y := by
    calc (x ^^^ t) ^^^ (y ^^^ t) = (x ^^^ y) ^^^ (t ^^^ t) := by ac_rfl
      _ = x ^^^ y := by rw [BitVec.xor_self, BitVec.xor_zero]
  cases p <;> cases q
  case false.false => rfl
  case false.true => exact BitVec.xor_assoc x y t
  case true.false =>
    show (x ^^^ y) ^^^ t = (x ^^^ t) ^^^ y
    ac_rfl
  case true.true => exact cancel.symm

theorem xtime_xor (a b : Byte) : xtime (a ^^^ b) = xtime a ^^^ xtime b := by
  unfold xtime
  rw [BitVec.getLsbD_xor, BitVec.shiftLeft_xor_distrib, select_xor]

/-- Whatever is additive and commutes with doubling passes through a product, term by term. -/
theorem shiftAddMul_map {φ : Byte → Byte} (hxor : ∀ x y, φ (x ^^^ y) = φ x ^^^ φ y)
    (hxtime : Function.Commute φ xtime) (a b : Byte) : shiftAddMul (φ a) b = φ (shiftAddMul a b) := by
  have zero : φ 0 = 0 := by simpa using hxor 0 0
  unfold shiftAddMul
  conv_lhs => rw [← zero]
  refine List.foldl_hom φ fun acc i => ?_
  rw [apply_ite φ, hxor, (hxtime.iterate_right i).eq]

theorem shiftAddMul_zero_left (b : Byte) : shiftAddMul 0 b = 0 :=
  shiftAddMul_map (φ := fun _ => 0) (fun _ _ => by simp) (fun _ => show (0 : Byte) = xtime 0 by decide) 0 b

theorem shiftAddMul_zero_right (a : Byte) : shiftAddMul a 0 = 0 := rfl

theorem shiftAddMul_one_left : ∀ b : Byte, shiftAddMul 1 b = b := by decide

/-- The product distributes over exclusive or, bit by bit of the second factor. -/
theorem shiftAddMul_xor (a b c : Byte) : shiftAddMul a (b ^^^ c) = shiftAddMul a b ^^^ shiftAddMul a c := by
  unfold shiftAddMul
  refine List.foldl_hom₂ _ (fun x y : Byte => x ^^^ y) _ _ _ 0 0 fun x y i => ?_
  rw [BitVec.getLsbD_xor, select_xor]

/-! ## Powers of the generator -/

/-- The product with the generator, 0x03 = x + 1 (R122). -/
def timesThree (a : Byte) : Byte := xtime a ^^^ a

/-- The powers of the generator. -/
def powThree (n : Nat) : Byte := timesThree^[n] 1

theorem powThree_succ (n : Nat) : powThree (n + 1) = timesThree (powThree n) :=
  Function.iterate_succ_apply' timesThree n 1

theorem timesThree_xor (a b : Byte) : timesThree (a ^^^ b) = timesThree a ^^^ timesThree b := by
  simp only [timesThree, xtime_xor]
  ac_rfl

theorem shiftAddMul_timesThree (a b : Byte) : shiftAddMul (timesThree a) b = timesThree (shiftAddMul a b) :=
  shiftAddMul_map timesThree_xor (fun a => (xtime_xor (xtime a) a).symm) a b

/-- In a product of powers the exponents add. -/
theorem shiftAddMul_powThree (m n : Nat) : shiftAddMul (powThree m) (powThree n) = powThree (m + n) := by
  have steps : Function.Semiconj (shiftAddMul · (powThree n)) timesThree timesThree :=
    fun a => shiftAddMul_timesThree a _
  calc shiftAddMul (powThree m) (powThree n)
      = timesThree^[m] (shiftAddMul 1 (powThree n)) := (steps.iterate_right m).eq 1
    _ = timesThree^[m] (powThree n) := by rw [shiftAddMul_one_left]
    _ = powThree (m + n) := (Function.iterate_add_apply timesThree m n 1).symm

/-! ## The default tables -/

/-- The recurrence the listing of `EXP` was produced by (R122). -/
theorem expEntry_succ : ∀ i : Byte, i ≠ 254 → i ≠ 255 →
    tableEntry expRows (i + 1) = timesThree (tableEntry expRows i) := by decide

theorem expEntry_ne_zero : ∀ i : Byte, i ≠ 255 → tableEntry expRows i ≠ 0 := by decide

theorem logEntry_ne_last : ∀ a : Byte, a ≠ 0 → tableEntry logRows a ≠ 255 := by decide

theorem expEntry_logEntry : ∀ a : Byte, a ≠ 0 → tableEntry expRows (tableEntry logRows a) = a := by decide

theorem logEntry_expEntry : ∀ i : Byte, i ≠ 255 → tableEntry logRows (tableEntry expRows i) = i := by decide

theorem hardware_exp {i : Byte} (hi : i ≠ 255) : hardware.exp i = tableEntry expRows i := if_neg hi

theorem hardware_log {a : Byte} (ha : a ≠ 0) : hardware.log a = tableEntry logRows a := if_neg ha

theorem ofNat8_ne_last {n : Nat} (hn : n < 255) : BitVec.ofNat 8 n ≠ 255 := by
  bv_omega

theorem expEntry_eq_powThree {n : Nat} (hn : n < 255) : tableEntry expRows (BitVec.ofNat 8 n) = powThree n := by
  induction n with
  | zero => rfl
  | succ n ih =>
    calc tableEntry expRows (BitVec.ofNat 8 (n + 1))
        = tableEntry expRows (BitVec.ofNat 8 n + 1) := congrArg _ (BitVec.ofNat_add n 1)
      _ = timesThree (tableEntry expRows (BitVec.ofNat 8 n)) := expEntry_succ _ (by bv_omega) (by bv_omega)
      _ = powThree (n + 1) := by rw [ih (by omega), powThree_succ]

/-- The powers of the generator repeat after 255 steps. -/
theorem powThree_mod (n : Nat) : powThree (n % 255) = powThree n := by
  have period : Function.IsPeriodicPt timesThree 255 1 := by
    calc powThree 255 = timesThree (tableEntry expRows 254) := by
          rw [powThree_succ, ← expEntry_eq_powThree (by omega)]
          rfl
      _ = 1 := by decide
  exact period.iterate_mod_apply n

theorem expMod_hardware (n : Nat) : expMod hardware n = powThree n := by
  have hn : n % 255 < 255 := Nat.mod_lt n (by omega)
  rw [expMod, hardware_exp (ofNat8_ne_last hn), expEntry_eq_powThree hn, powThree_mod]

/-- `LOG` gives the exponent of an element (R121). -/
theorem powThree_log {a : Byte} (ha : a ≠ 0) : powThree (hardware.log a).toNat = a := by
  have hlog := logEntry_ne_last a ha
  rw [hardware_log ha, ← expEntry_eq_powThree (by bv_omega), BitVec.ofNat_toNat, BitVec.setWidth_eq,
    expEntry_logEntry a ha]

/-- `gf_mul` with the default tables is the product by shift and add (R122). -/
theorem gfMul_hardware (a b : Byte) : gfMul hardware a b = shiftAddMul a b := by
  unfold gfMul
  split
  next hzero =>
    rcases hzero with rfl | rfl
    · exact (shiftAddMul_zero_left b).symm
    · exact (shiftAddMul_zero_right a).symm
  next hne =>
    obtain ⟨ha, hb⟩ := not_or.mp hne
    rw [expMod_hardware, ← shiftAddMul_powThree, powThree_log ha, powThree_log hb]

/-! ## The statements -/

/-- Settles O24: the command leaves `gf_mul` of its operands (R124), which is `gfMul_hardware`. -/
theorem gfmulIsShiftAndAdd : Obligations.GfmulIsShiftAndAdd := by
  intro a b s
  rw [← gfMul_hardware]
  rfl

/-- Settles O25: the bijections by the listed entries, distributivity by that of the product by shift and add. -/
theorem defaultTablesMeetFieldLaws : Obligations.DefaultTablesMeetFieldLaws where
  exp_log a ha := by rw [hardware_log ha, hardware_exp (logEntry_ne_last a ha), expEntry_logEntry a ha]
  log_exp i hi := by rw [hardware_exp hi, hardware_log (expEntry_ne_zero i hi), logEntry_expEntry i hi]
  log_range a ha := by
    rw [hardware_log ha]
    exact logEntry_ne_last a ha
  exp_range i hi := by
    rw [hardware_exp hi]
    exact expEntry_ne_zero i hi
  log_one := by
    rw [hardware_log (by decide)]
    rfl
  distrib a b c := by simp only [gfMul_hardware, shiftAddMul_xor]

end Sys2Proof.Machine
end

section
/-! PROOFS. Numbers as sequences of digits (00_scope.md R12): a sequence of `w`-bit digits read as one big-endian
integer, and an integer cut into `w`-bit digits. Bytes are the digits of width 8, words those of width 10
(41_word_codec.md R141, R142), so what is said here holds of both; then the word codec and its round trip (R143). -/

namespace Sys2Proof.Machine

/-! ## Digits of any width -/

variable {w : Nat}

/-- The digits as one big-endian integer. -/
def ofBitDigits (l : List (BitVec w)) : Nat := l.foldl (fun n x => n * 2 ^ w + x.toNat) 0

/-- The lowest `n` digits of an integer, the most significant first. -/
def toBitDigits (w v n : Nat) : List (BitVec w) :=
  (List.range n).map (fun k => BitVec.ofNat w (v >>> (w * (n - 1 - k))))

theorem ofBitDigits_append_singleton (l : List (BitVec w)) (x : BitVec w) :
    ofBitDigits (l ++ [x]) = ofBitDigits l * 2 ^ w + x.toNat := by
  simp [ofBitDigits]

theorem ofBitDigits_lt (l : List (BitVec w)) : ofBitDigits l < 2 ^ (w * l.length) := by
  induction l using List.reverseRecOn with
  | nil => simp [ofBitDigits]
  | append_singleton l x ih =>
    rw [ofBitDigits_append_singleton, List.length_append, List.length_singleton, Nat.mul_succ, Nat.pow_add]
    calc ofBitDigits l * 2 ^ w + x.toNat < (ofBitDigits l + 1) * 2 ^ w := by
          rw [Nat.succ_mul]
          exact Nat.add_lt_add_left x.isLt _
      _ ≤ 2 ^ (w * l.length) * 2 ^ w := Nat.mul_le_mul_right _ ih

theorem ofBitDigits_cons (x : BitVec w) (l : List (BitVec w)) :
    ofBitDigits (x :: l) = x.toNat * 2 ^ (w * l.length) + ofBitDigits l := by
  induction l using List.reverseRecOn with
  | nil => simp [ofBitDigits]
  | append_singleton l y ih =>
    rw [← List.cons_append, ofBitDigits_append_singleton, ih, ofBitDigits_append_singleton, List.length_append,
      List.length_singleton, Nat.mul_succ, Nat.pow_add]
    ring

/-- The last digit is the remainder, the ones before it are those of the quotient. -/
theorem toBitDigits_succ (v n : Nat) :
    toBitDigits w v (n + 1) = toBitDigits w (v / 2 ^ w) n ++ [BitVec.ofNat w v] := by
  simp only [toBitDigits, List.range_succ, List.map_append, List.map_singleton, Nat.add_sub_cancel, Nat.sub_self,
    Nat.mul_zero, Nat.shiftRight_zero]
  refine congrArg (· ++ _) (List.map_congr_left fun k hk => ?_)
  have hk : k < n := List.mem_range.mp hk
  have place : w * (n - k) = w + w * (n - 1 - k) := by
    rw [Nat.add_comm, ← Nat.mul_succ]
    congr 1
    omega
  rw [place, Nat.shiftRight_add, Nat.shiftRight_eq_div_pow v w]

theorem ofBitDigits_toBitDigits (v n : Nat) : ofBitDigits (toBitDigits w v n) = v % 2 ^ (w * n) := by
  induction n generalizing v with
  | zero => simp [toBitDigits, ofBitDigits, Nat.mod_one]
  | succ n ih =>
    rw [toBitDigits_succ, ofBitDigits_append_singleton, ih, BitVec.toNat_ofNat, Nat.mul_succ, Nat.add_comm (w * n),
      Nat.pow_add, Nat.mod_mul]
    ring

theorem toBitDigits_ofBitDigits (l : List (BitVec w)) : toBitDigits w (ofBitDigits l) l.length = l := by
  induction l using List.reverseRecOn with
  | nil => rfl
  | append_singleton l x ih =>
    have quotient : (ofBitDigits l * 2 ^ w + x.toNat) / 2 ^ w = ofBitDigits l := by
      rw [Nat.mul_comm, Nat.mul_add_div (Nat.two_pow_pos w), Nat.div_eq_of_lt x.isLt, Nat.add_zero]
    have remainder : BitVec.ofNat w (ofBitDigits l * 2 ^ w + x.toNat) = x := by
      rw [← BitVec.toNat_inj, BitVec.toNat_ofNat, Nat.mul_add_mod_self_right, Nat.mod_eq_of_lt x.isLt]
    rw [ofBitDigits_append_singleton, List.length_append, List.length_singleton, toBitDigits_succ, quotient,
      remainder, ih]

/-! ## Bytes and words -/

theorem be_eq (b : List Byte) : be b = ofBitDigits b := rfl

theorem bytesBe_eq (v n : Nat) : bytesBe v n = toBitDigits 8 v n := rfl

theorem wordsBe_eq (ws : List Word) : wordsBe ws = ofBitDigits ws := by
  refine List.foldl_ext _ _ _ fun n x _ => ?_
  rw [← Nat.shiftLeft_add_eq_or_of_lt x.isLt, Nat.shiftLeft_eq]

theorem be_lt (b : List Byte) : be b < 2 ^ (8 * b.length) := ofBitDigits_lt b

theorem be_cons (x : Byte) (b : List Byte) : be (x :: b) = x.toNat * 2 ^ (8 * b.length) + be b := ofBitDigits_cons x b

theorem bytesBe_be (b : List Byte) : bytesBe (be b) b.length = b := toBitDigits_ofBitDigits b

theorem be_bytesBe {v n : Nat} (h : v < 2 ^ (8 * n)) : be (bytesBe v n) = v :=
  (ofBitDigits_toBitDigits v n).trans (Nat.mod_eq_of_lt h)

/-- The words of a byte sequence have room for its integer (R140). -/
theorem eight_mul_le_ten_mul_wordCount (n : Nat) : 8 * n ≤ 10 * wordCount n := by
  unfold wordCount
  omega

/-- Packing keeps the integer (R141). -/
theorem wordsBe_wordsOfBytes (b : List Byte) : wordsBe (wordsOfBytes b) = be b := by
  rw [wordsBe_eq]
  refine (ofBitDigits_toBitDigits _ _).trans (Nat.mod_eq_of_lt ((be_lt b).trans_le ?_))
  exact Nat.pow_le_pow_right (by decide) (eight_mul_le_ten_mul_wordCount _)

/-! ## Unpacking -/

/-- Without the leading bits a number of words holds whole bytes (R142). -/
theorem bits_sub_leadingBits (c : Nat) : 10 * c - leadingBits c = 8 * decodedLength c := by
  unfold decodedLength leadingBits
  split <;> omega

/-- Words whose leading bits are zero unpack to the bytes of the same integer (R142). -/
theorem bytesOfWords_of_lt {ws : List Word} (h : wordsBe ws < 2 ^ (8 * decodedLength ws.length)) :
    bytesOfWords ws = .ok (bytesBe (wordsBe ws) (decodedLength ws.length)) := by
  rw [bytesOfWords_eq_ok, bits_sub_leadingBits, Nat.shiftRight_eq_div_pow]
  exact ⟨Nat.div_eq_of_lt h, rfl⟩

theorem exists_bytesOfWords_of_lt {ws : List Word} (h : wordsBe ws < 2 ^ (8 * decodedLength ws.length)) :
    ∃ v, bytesOfWords ws = .ok v ∧ v.length = decodedLength ws.length ∧ be v = wordsBe ws :=
  ⟨_, bytesOfWords_of_lt h, length_bytesBe _ _, be_bytesBe h⟩

/-- A leading bit that is set is reported (R142). -/
theorem bytesOfWords_of_le {ws : List Word} (h : 2 ^ (8 * decodedLength ws.length) ≤ wordsBe ws) :
    bytesOfWords ws = .error .invalidPadding := by
  rw [bytesOfWords_eq_error, bits_sub_leadingBits, Nat.shiftRight_eq_div_pow]
  exact ⟨(Nat.div_pos h (Nat.two_pow_pos _)).ne', rfl⟩

/-- The words of `n` bytes decode to `n` bytes, or to one less when `n` is a multiple of 5: then their number is a
multiple of 4 and has no spare bit for the byte that is dropped (R143). -/
theorem decodedLength_wordCount (n : Nat) : decodedLength (wordCount n) = if n % 5 = 0 then n - 1 else n := by
  have words : wordCount n = 4 * (n / 5) + n % 5 := by
    unfold wordCount
    omega
  have residue : n % 5 < 5 := Nat.mod_lt n (by decide)
  have division : n = 5 * (n / 5) + n % 5 := (Nat.div_add_mod n 5).symm
  rw [words]
  unfold decodedLength leadingBits
  interval_cases n % 5 <;> split <;> split <;> omega

/-- Settles O28: the packed words are the integer of the bytes, and the number of bytes they decode to, by
`decodedLength_wordCount`, has room for it unless the first byte is in the way. -/
theorem wordCodecRoundTrip : Obligations.WordCodecRoundTrip := by
  intro x b
  have packed := wordsBe_wordsOfBytes (x :: b)
  have count : decodedLength (wordsOfBytes (x :: b)).length =
      if (b.length + 1) % 5 = 0 then b.length else b.length + 1 := by
    rw [length_wordsOfBytes, decodedLength_wordCount]
    rfl
  split
  next hfive =>
    rw [if_neg hfive] at count
    rw [bytesOfWords_of_lt, packed, count]
    · exact congrArg _ (bytesBe_be (x :: b))
    · rw [packed, count]
      exact be_lt (x :: b)
  next hfive =>
    rw [if_pos (not_not.mp hfive)] at count
    split
    next hx =>
      refine bytesOfWords_of_le ?_
      have hx : 0 < x.toNat := Nat.pos_of_ne_zero fun h => hx (BitVec.eq_of_toNat_eq h)
      rw [packed, count, be_cons]
      exact (Nat.le_mul_of_pos_left _ hx).trans (Nat.le_add_right _ _)
    next hx =>
      obtain rfl := not_not.mp hx
      have dropped : be (0 :: b) = be b := by simp [be_cons]
      rw [bytesOfWords_of_lt, packed, count, dropped, bytesBe_be]
      rw [packed, count, dropped]
      exact be_lt b

end Sys2Proof.Machine
end

section
/-! PROOFS. The word codec commands (41_word_codec.md R146, R147), and how a command that fails or succeeds leaves the
machine, said for every command. -/

namespace Sys2Proof.Machine

open Sys2Proof.Safety

variable {s t : State}

/-! ## How a command ends -/

/-- A command that fails puts its status word and nothing else (R303, R304). -/
theorem exec_of_error {i : Instr} {e : CmdError} (h : commandBody hardware i s = .error e) :
    exec i s = .next { s with status := statusError e } := by
  rw [exec_eq_finish, h]
  rfl

/-- A command that succeeds puts its results and `STATUS`, and keeps to the locations the table of R36 names for it. -/
theorem exec_of_ok {i : Instr} (h : commandBody hardware i s = .ok t) :
    exec i s = .next t.succeed ∧ SameBut (mayWrite i s) s t.succeed := by
  have he : exec i s = .next t.succeed := by rw [exec_eq_finish, h, finish_ok]
  exact ⟨he, (commandsWriteOnlyTheirLocations i s _ he).1⟩

/-! ## What is written can be read back -/

/-- The words put into `W` are the words read from it (R36, R37). -/
theorem words_putWords {ws : List Word} (h : ws.length ≤ 33) : (s.putWords ws).words = ws := by
  have len : (BitVec.ofNat 6 ws.length).toNat = ws.length := by
    rw [BitVec.toNat_ofNat, Nat.mod_eq_of_lt (by omega)]
  rw [State.words, State.putWords_w, State.putWords_wlen, len]
  exact take_toList_overwrite _ _ h

/-- A buffer that begins with a value, and a length that counts it, hold the value. -/
theorem value_of_overwrite {v : Vector Byte 32} {b : List Byte} (h : b.length ≤ 32) (hval : t.val = overwrite v b)
    (hlen : t.len = BitVec.ofNat 6 b.length) : t.len.toNat = b.length ∧ t.value = b := by
  have len : t.len.toNat = b.length := by
    rw [hlen, BitVec.toNat_ofNat, Nat.mod_eq_of_lt (by omega)]
  rw [State.value, len, hval]
  exact ⟨rfl, take_toList_overwrite _ _ h⟩

theorem value_putValue {b : List Byte} (h : b.length ≤ 32) :
    (s.putValue b).len.toNat = b.length ∧ (s.putValue b).value = b := value_of_overwrite h rfl rfl

theorem value_putShare {share : Share} (h : share.value.length ≤ 32) :
    (s.putShare share).len.toNat = share.value.length ∧ (s.putShare share).value = share.value :=
  value_of_overwrite h rfl rfl

/-! ## Lengths -/

theorem wordCount_le {n : Nat} (h : n ≤ 32) : wordCount n ≤ 26 := by
  unfold wordCount
  omega

theorem decodedLength_le {c : Nat} (h : c ≤ 26) : decodedLength c ≤ 32 := by
  unfold decodedLength leadingBits
  split <;> omega

/-! ## The checks that fail -/

theorem not_inRange_iff (lo hi n : Nat) : (!inRange lo hi n) = true ↔ ¬ (lo ≤ n ∧ n ≤ hi) := by
  rw [Bool.not_eq_true', ← Bool.not_eq_true, inRange_iff]

theorem wencBody_of_len (C : Config) (h : ¬ (1 ≤ s.len.toNat ∧ s.len.toNat ≤ 32)) :
    wencBody C s = .error .invalidOperand := if_pos ((not_inRange_iff ..).mpr h)

theorem wdecBody_of_wlen (C : Config) (h : ¬ (1 ≤ s.wlen.toNat ∧ s.wlen.toNat ≤ 26)) :
    wdecBody C s = .error .invalidOperand := if_pos ((not_inRange_iff ..).mpr h)

theorem wdecBody_of_padding (C : Config) (hwlen : 1 ≤ s.wlen.toNat ∧ s.wlen.toNat ≤ 26)
    (h : bytesOfWords s.words = .error .invalidPadding) : wdecBody C s = .error .invalidPadding := by
  rw [wdecBody, if_neg fun hout => (not_inRange_iff ..).mp hout hwlen, h]
  rfl

/-! ## The statements -/

/-- Settles O26: the words put into `W` are those of the bytes, and packing keeps the integer. -/
theorem wencPacksTheInteger : Obligations.WencPacksTheInteger := by
  refine fun s => ⟨fun hlen => ?_, fun hlen => ?_⟩
  · have body : commandBody hardware .wenc s = .ok (s.putWords (wordsOfBytes s.value)) :=
      (wencBody_eq_ok (C := hardware)).mpr ⟨hlen, rfl⟩
    obtain ⟨he, frame⟩ := exec_of_ok body
    have count : (wordsOfBytes s.value).length = wordCount s.len.toNat := by
      rw [length_wordsOfBytes, length_value hlen.2]
    have room := wordCount_le hlen.2
    have words : (s.putWords (wordsOfBytes s.value)).succeed.words = wordsOfBytes s.value :=
      words_putWords (by omega)
    have wlen : (s.putWords (wordsOfBytes s.value)).succeed.wlen.toNat = wordCount s.len.toNat := by
      rw [State.succeed_wlen, State.putWords_wlen, count, BitVec.toNat_ofNat, Nat.mod_eq_of_lt (by omega)]
    exact ⟨_, he, rfl, wlen, by rw [words, count, wlen], by rw [words, wordsBe_wordsOfBytes], frame, rfl⟩
  · exact exec_of_error (i := .wenc) (wencBody_of_len hardware hlen)

/-- Settles O27: `bytesOfWords` in its two cases, on 1 to 26 words, which decode to no more bytes than `VAL` has. -/
theorem wdecUnpacksTheInteger : Obligations.WdecUnpacksTheInteger := by
  intro s c n
  have count (hc : 1 ≤ c ∧ c ≤ 26) : decodedLength s.words.length = n := by
    rw [length_words (hc.2.trans (by decide))]
    rfl
  refine ⟨fun hc hlt => ?_, fun hc hle => ?_, fun hc => ?_⟩
  · obtain ⟨v, unpacked, length, integer⟩ := exists_bytesOfWords_of_lt (ws := s.words) (by rwa [count hc])
    rw [count hc] at length
    have body : commandBody hardware .wdec s = .ok (s.putValue v) :=
      (wdecBody_eq_ok (C := hardware)).mpr ⟨hc, v, unpacked, rfl⟩
    obtain ⟨he, frame⟩ := exec_of_ok body
    obtain ⟨len, value⟩ : (s.putValue v).succeed.len.toNat = v.length ∧ (s.putValue v).succeed.value = v :=
      value_putValue (length ▸ decodedLength_le hc.2)
    exact ⟨_, he, rfl, len.trans length, by rw [value, length], by rw [value, integer], frame, rfl⟩
  · have padding : bytesOfWords s.words = .error .invalidPadding := bytesOfWords_of_le (by rwa [count hc])
    exact exec_of_error (i := .wdec) (wdecBody_of_padding hardware hc padding)
  · exact exec_of_error (i := .wdec) (wdecBody_of_wlen hardware hc)

end Sys2Proof.Machine
end

section
/-! PROOFS. A created checksum verifies (42_rs1024.md R160 to R165): the checksum recurrence is linear, for every
generator table, and three words move through it unchanged to the top of the state. -/

namespace Sys2Proof.Machine

variable (C : Config)

/-! ## One step of the recurrence -/

/-- The term that a bit selects. -/
theorem ite_xor_eq (b : Bool) (x t : Checksum) : (if b then x ^^^ t else x) = x ^^^ if b then t else 0 := by
  cases b <;> simp

/-- An exclusive or of two bits selects an exclusive or of terms. -/
theorem ite_xor (p q : Bool) (t : Checksum) :
    (if p ^^ q then t else 0) = (if p then t else 0) ^^^ if q then t else 0 := by
  cases p <;> cases q <;> simp

/-- The shift drops the top ten bits, so they need no mask (R160). -/
theorem shiftLeft_and_mask (y : Checksum) : (y &&& 0xFFFFF) <<< 10 = y <<< 10 := by
  have mask : y.toNat &&& 0xFFFFF = y.toNat % 2 ^ 20 := Nat.and_two_pow_sub_one_eq_mod y.toNat 20
  rw [← BitVec.toNat_inj, BitVec.toNat_shiftLeft, BitVec.toNat_shiftLeft, BitVec.toNat_and]
  show (y.toNat &&& 0xFFFFF) <<< 10 % 2 ^ 30 = y.toNat <<< 10 % 2 ^ 30
  rw [mask, Nat.shiftLeft_eq, Nat.shiftLeft_eq]
  omega

/-- The step is linear in the state and the value together (R160). -/
theorem polyStep_xor (s t : Checksum) (u v : Word) :
    polyStep C (s ^^^ t) (u ^^^ v) = polyStep C s u ^^^ polyStep C t v := by
  have entered : ((s ^^^ t) <<< 10) ^^^ (u ^^^ v).setWidth 30 =
      ((s <<< 10) ^^^ u.setWidth 30) ^^^ ((t <<< 10) ^^^ v.setWidth 30) := by
    rw [BitVec.shiftLeft_xor_distrib, BitVec.setWidth_xor]
    ac_rfl
  unfold polyStep
  simp only [shiftLeft_and_mask, entered]
  refine List.foldl_hom₂ _ (fun x y : Checksum => x ^^^ y) _ _ _ _ _ fun x y b => ?_
  simp only [BitVec.ushiftRight_xor_distrib, BitVec.getLsbD_xor, ite_xor_eq, ite_xor]
  ac_rfl

/-- Folded over two sequences of the same length (R165(b) before the initial state). -/
theorem foldl_polyStep_xor {u v : List Word} (h : u.length = v.length) (s t : Checksum) :
    (List.zipWith (· ^^^ ·) u v).foldl (polyStep C) (s ^^^ t) = u.foldl (polyStep C) s ^^^ v.foldl (polyStep C) t := by
  induction u generalizing v s t with
  | nil =>
    obtain rfl := List.length_eq_zero_iff.mp h.symm
    rfl
  | cons x u ih =>
    obtain ⟨y, v, rfl⟩ := List.exists_cons_of_length_pos (h ▸ Nat.succ_pos _ : 0 < v.length)
    simp only [List.zipWith_cons_cons, List.foldl_cons, polyStep_xor, ih (Nat.succ_inj.mp h)]

/-- The top bits of a number, followed by the ten bits below them, are the top bits and ten more: no generator is
brought in, since the old top ten bits are zero. -/
theorem polyStep_ushiftRight (c : Checksum) (k : Nat) :
    polyStep C (c >>> (k + 10)) (c.extractLsb' k 10) = c >>> k := by
  have noGen : c >>> (k + 10) >>> 20 = 0#30 := by
    rw [← BitVec.shiftRight_add]
    exact BitVec.ushiftRight_eq_zero (by omega)
  have entered : ((c >>> (k + 10)) <<< 10) ^^^ (c.extractLsb' k 10).setWidth 30 = c >>> k := by
    apply BitVec.eq_of_getLsbD_eq
    intro i hi
    by_cases low : i < 10
    · simp [low, hi]
    · have high : k + 10 + (i - 10) = k + i := by omega
      simp [low, hi, high]
  unfold polyStep
  simp only [shiftLeft_and_mask, entered, noGen, BitVec.getLsbD_zero, Bool.false_eq_true, if_false]
  exact List.foldl_fixed _

/-! ## The checksum -/

/-- The three words of a checksum, entered into an empty state, are the checksum (R163). -/
theorem foldl_polyStep_checksumWords (c : Checksum) : (checksumWords c).foldl (polyStep C) 0 = c := by
  have empty : (0 : Checksum) = c >>> 30 := (BitVec.ushiftRight_eq_zero (by omega)).symm
  rw [checksumWords, List.foldl_cons, List.foldl_cons, List.foldl_cons, List.foldl_nil, empty,
    polyStep_ushiftRight C c 20, polyStep_ushiftRight C c 10, polyStep_ushiftRight C c 0, BitVec.ushiftRight_zero]

/-- The checksum words at the end of a sequence, in place of three zeros, add the checksum to its `polymod`. -/
theorem customPolymod_append_checksumWords (data : List Word) (c : Checksum) :
    customPolymod C (data ++ checksumWords c) = customPolymod C (data ++ [0, 0, 0]) ^^^ c := by
  have split (state : Checksum) :
      (checksumWords c).foldl (polyStep C) state = [0, 0, 0].foldl (polyStep C) state ^^^ c := by
    have sum := foldl_polyStep_xor C (u := [0, 0, 0]) (v := checksumWords c) rfl state 0
    rw [foldl_polyStep_checksumWords] at sum
    rw [← sum]
    simp [checksumWords]
  simp only [customPolymod, polymod, List.foldl_append, split]

/-- `rs_create` keeps the words before the last three (R163). -/
theorem rsCreate_append {data last : List Word} (h : last.length = 3) :
    rsCreate C (data ++ last) = data ++ checksumWords (customPolymod C (data ++ [0, 0, 0]) ^^^ 1) := by
  simp [rsCreate, h]

/-- What `rs_create` returns verifies (R165(a)). -/
theorem rsVerify_rsCreate (ws : List Word) : rsVerify C (rsCreate C ws) = true := by
  simp only [rsVerify, rsCreate, customPolymod_append_checksumWords, ← BitVec.xor_assoc, BitVec.xor_self,
    BitVec.zero_xor, beq_self_eq_true]

end Sys2Proof.Machine
end

section
/-! PROOFS. The share codec (45_share_codec.md): what `share_decode` answers on any words (R235, R236), and on the
mnemonic of a legal share (R237). -/

namespace Sys2Proof.Machine

open Sys2Proof.Safety

/-! ## The fields of four metadata words (R235) -/

/-- Bits put below a number are added to it. -/
theorem toNat_append_eq {n m : Nat} (x : BitVec n) (y : BitVec m) : (x ++ y).toNat = x.toNat * 2 ^ m + y.toNat := by
  rw [BitVec.toNat_append, ← Nat.shiftLeft_add_eq_or_of_lt y.isLt, Nat.shiftLeft_eq]

/-- The same of two fields joined by a shift. -/
theorem toNat_setWidth_shiftLeft_or {n m k : Nat} (x : BitVec n) (y : BitVec m) (h : n + m ≤ k) :
    ((x.setWidth k <<< m) ||| y.setWidth k).toNat = x.toNat * 2 ^ m + y.toNat := by
  have hx : x.toNat * 2 ^ m + y.toNat < 2 ^ k := by
    rw [← toNat_append_eq]
    exact (x ++ y).isLt.trans_le (Nat.pow_le_pow_right (by decide) h)
  rw [BitVec.toNat_or, BitVec.toNat_shiftLeft, BitVec.toNat_setWidth_of_le (by omega),
    BitVec.toNat_setWidth_of_le (by omega), Nat.shiftLeft_eq, Nat.mod_eq_of_lt (by omega), ← Nat.shiftLeft_eq,
    ← Nat.shiftLeft_add_eq_or_of_lt y.isLt]

theorem toNat_loadPlusOne (f : BitVec 4) : (loadPlusOne f).toNat = f.toNat + 1 := by
  have hf := f.isLt
  have one : (1 : BitVec 5).toNat = 1 := rfl
  rw [loadPlusOne, BitVec.toNat_add, BitVec.toNat_setWidth_of_le (by decide), one, Nat.mod_eq_of_lt (by omega)]

theorem toNat_storeMinusOne {f : BitVec 5} (h : 1 ≤ f.toNat ∧ f.toNat ≤ 16) :
    (storeMinusOne f).toNat = f.toNat - 1 := by
  have one : (1 : BitVec 5).toNat = 1 := rfl
  rw [storeMinusOne, BitVec.toNat_setWidth, BitVec.toNat_sub, one]
  omega

/-- The share that the first four of the words give, with a value put in (R235). -/
def fieldsOf (ws : List Word) (value : List Byte) : Share :=
  metaShare (ws.getD 0 0) (ws.getD 1 0) (ws.getD 2 0) (ws.getD 3 0) value

variable (ws : List Word) (value : List Byte)

theorem toNat_fieldsOf_id :
    (fieldsOf ws value).id.toNat = (ws.getD 0 0).toNat * 32 + (ws.getD 1 0).toNat / 32 := by
  refine (toNat_setWidth_shiftLeft_or _ _ (by decide)).trans ?_
  rw [BitVec.extractLsb'_toNat, Nat.shiftRight_eq_div_pow]
  have := (ws.getD 1 0).isLt
  omega

theorem toNat_fieldsOf_ie : (fieldsOf ws value).ie.toNat = (ws.getD 1 0).toNat % 32 := rfl

theorem toNat_fieldsOf_gi : (fieldsOf ws value).gi.toNat = (ws.getD 2 0).toNat / 64 := by
  refine (BitVec.extractLsb'_toNat ..).trans ?_
  rw [Nat.shiftRight_eq_div_pow]
  have := (ws.getD 2 0).isLt
  omega

theorem toNat_fieldsOf_gt : (fieldsOf ws value).gt.toNat = gtField ws := by
  refine (toNat_loadPlusOne _).trans ?_
  rw [BitVec.extractLsb'_toNat, Nat.shiftRight_eq_div_pow]
  rfl

theorem toNat_fieldsOf_gc : (fieldsOf ws value).gc.toNat = gcField ws := by
  refine (toNat_loadPlusOne _).trans ?_
  rw [toNat_setWidth_shiftLeft_or _ _ (by decide), BitVec.extractLsb'_toNat, BitVec.extractLsb'_toNat,
    Nat.shiftRight_eq_div_pow, gcField]
  have := (ws.getD 3 0).isLt
  omega

theorem toNat_fieldsOf_mi : (fieldsOf ws value).mi.toNat = (ws.getD 3 0).toNat / 16 % 16 := by
  refine (BitVec.extractLsb'_toNat ..).trans ?_
  rw [Nat.shiftRight_eq_div_pow]

theorem toNat_fieldsOf_mt : (fieldsOf ws value).mt.toNat = (ws.getD 3 0).toNat % 16 + 1 := by
  refine (toNat_loadPlusOne _).trans ?_
  rw [BitVec.extractLsb'_toNat]
  rfl

/-! ## Decoding any words (R234, R235) -/

theorem fieldsOf_gc_lt_gt : (fieldsOf ws []).gc < (fieldsOf ws []).gt ↔ gcField ws < gtField ws := by
  rw [BitVec.lt_def, toNat_fieldsOf_gc, toNat_fieldsOf_gt]

/-- The checksum is tested first, then the group threshold; the value words decide the rest. -/
theorem shareDecode_eq_map (C : Config) : shareDecode C ws =
    if rsVerify C ws = false then .error .invalidMnemonicChecksum
    else if gcField ws < gtField ws then .error .invalidGroupThreshold
    else (bytesOfWords (valueWords ws)).map (fieldsOf ws) := by
  simp only [← fieldsOf_gc_lt_gt, ← Bool.not_eq_true']
  rfl

theorem paddingSet_iff :
    paddingSet ws = true ↔ 2 ^ (8 * decodedLength (valueWords ws).length) ≤ wordsBe (valueWords ws) := by
  rw [length_valueWords]
  exact decide_eq_true_iff

theorem valueWords_lt {ws : List Word} (hpad : paddingSet ws = false) :
    wordsBe (valueWords ws) < 2 ^ (8 * decodedLength (valueWords ws).length) := by
  rwa [← Bool.not_eq_true, paddingSet_iff, Nat.not_le] at hpad

theorem shareDecode_of_checksum (C : Config) (hsum : rsVerify C ws = false) :
    shareDecode C ws = .error .invalidMnemonicChecksum := by
  rw [shareDecode_eq_map, if_pos hsum]

section
variable {ws} {C : Config} (hsum : rsVerify C ws = true)
include hsum

theorem shareDecode_of_threshold (hgt : gcField ws < gtField ws) :
    shareDecode C ws = .error .invalidGroupThreshold := by
  rw [shareDecode_eq_map, if_neg ((Bool.not_eq_false _).mpr hsum), if_pos hgt]

theorem shareDecode_eq_map_of_threshold (hgt : gtField ws ≤ gcField ws) :
    shareDecode C ws = (bytesOfWords (valueWords ws)).map (fieldsOf ws) := by
  rw [shareDecode_eq_map, if_neg ((Bool.not_eq_false _).mpr hsum), if_neg (Nat.not_lt.mpr hgt)]

theorem shareDecode_of_padding (hgt : gtField ws ≤ gcField ws) (hpad : paddingSet ws = true) :
    shareDecode C ws = .error .invalidPadding := by
  rw [shareDecode_eq_map_of_threshold hsum hgt, bytesOfWords_of_le ((paddingSet_iff ws).mp hpad)]
  rfl

/-- Everything else decodes, to the fields and to a value that is the integer of the value words. -/
theorem shareDecode_of_valid (hgt : gtField ws ≤ gcField ws) (hpad : paddingSet ws = false) :
    ∃ v, shareDecode C ws = .ok (fieldsOf ws v) ∧ v.length = decodedLength (ws.length - 7) ∧
      be v = wordsBe (valueWords ws) := by
  obtain ⟨v, unpacked, length, integer⟩ := exists_bytesOfWords_of_lt (valueWords_lt hpad)
  rw [length_valueWords] at length
  refine ⟨v, ?_, length, integer⟩
  rw [shareDecode_eq_map_of_threshold hsum hgt, unpacked]
  rfl

end

/-! ## The mnemonic of a share (R231 to R233) -/

variable {h : Share}

/-- The metadata words by the formulas of R231, cut from the one integer of the 40 bits. -/
theorem map_toNat_metaWords (hlegal : legalShare h) : (metaWords h).map BitVec.toNat = metaWordsNat h := by
  obtain ⟨hgt, hgc, hmt, -⟩ := hlegal
  have string : (metaBits h).toNat =
      (((((h.id.toNat * 32 + h.ie.toNat) * 16 + h.gi.toNat) * 16 + (h.gt.toNat - 1)) * 16 + (h.gc.toNat - 1)) * 16
        + h.mi.toNat) * 16 + (h.mt.toNat - 1) := by
    rw [metaBits, toNat_append_eq, toNat_append_eq, toNat_append_eq, toNat_append_eq, toNat_append_eq, toNat_append_eq,
      toNat_storeMinusOne hgt, toNat_storeMinusOne hgc, toNat_storeMinusOne hmt]
    rfl
  have hid := h.id.isLt
  have hie := h.ie.isLt
  have hgi := h.gi.isLt
  have hmi := h.mi.isLt
  simp only [metaWords, metaWordsNat, List.map_cons, List.map_nil, BitVec.extractLsb'_toNat, Nat.shiftRight_eq_div_pow,
    string, List.cons.injEq, and_true]
  omega

/-- Shares with the same numbers in their registers and the same value are the same. -/
theorem share_ext_toNat {a b : Share} (hid : a.id.toNat = b.id.toNat) (hie : a.ie.toNat = b.ie.toNat)
    (hgi : a.gi.toNat = b.gi.toNat) (hgt : a.gt.toNat = b.gt.toNat) (hgc : a.gc.toNat = b.gc.toNat)
    (hmi : a.mi.toNat = b.mi.toNat) (hmt : a.mt.toNat = b.mt.toNat) (hvalue : a.value = b.value) : a = b := by
  rw [BitVec.toNat_inj] at hid hie hgi hgt hgc hmi hmt
  cases a
  cases b
  exact Share.mk.injEq .. ▸ ⟨hid, hie, hgi, hgt, hgc, hmi, hmt, hvalue⟩

/-- The metadata words give back the fields of a legal share (R231, R235). -/
theorem fieldsOf_metaWords_append (hlegal : legalShare h) (rest : List Word) :
    fieldsOf (metaWords h ++ rest) value = { h with value := value } := by
  have formulas := map_toNat_metaWords hlegal
  obtain ⟨hgt, hgc, hmt, -⟩ := hlegal
  have hie := h.ie.isLt
  have hgi := h.gi.isLt
  have hmi := h.mi.isLt
  have words : ∀ k < 4, ((metaWords h ++ rest).getD k 0).toNat = (metaWordsNat h).getD k 0 := by
    intro k hk
    rw [← formulas]
    interval_cases k <;> rfl
  have h0 := words 0 (by decide)
  have h1 := words 1 (by decide)
  have h2 := words 2 (by decide)
  have h3 := words 3 (by decide)
  simp only [metaWordsNat, List.getD_cons_zero, List.getD_cons_succ] at h0 h1 h2 h3
  refine share_ext_toNat ?_ ?_ ?_ ?_ ?_ ?_ ?_ rfl
  all_goals
    simp only [toNat_fieldsOf_id, toNat_fieldsOf_ie, toNat_fieldsOf_gi, toNat_fieldsOf_gt, toNat_fieldsOf_gc,
      toNat_fieldsOf_mi, toNat_fieldsOf_mt, gtField, gcField, h0, h1, h2, h3]
    omega

/-- A mnemonic is the metadata, the value and a checksum (R230, R233). -/
theorem shareEncode_eq_append (C : Config) (h : Share) :
    shareEncode C h = metaWords h ++ (wordsOfBytes h.value ++
      checksumWords (customPolymod C (metaWords h ++ wordsOfBytes h.value ++ [0, 0, 0]) ^^^ 1)) := by
  rw [shareEncode, rsCreate_append C rfl, List.append_assoc]

/-- The mnemonic of a value of 1 to 32 bytes has a legal number of words (R230, R239). -/
theorem length_shareEncode_mem (C : Config) {h : Share} (hlen : 1 ≤ h.value.length ∧ h.value.length ≤ 32) :
    8 ≤ (shareEncode C h).length ∧ (shareEncode C h).length ≤ 33 := by
  have least : 1 ≤ wordCount h.value.length := wordCount_le_wordCount hlen.1
  have most := wordCount_le hlen.2
  rw [length_shareEncode]
  omega

theorem valueWords_shareEncode (C : Config) (h : Share) : valueWords (shareEncode C h) = wordsOfBytes h.value := by
  have data : (shareEncode C h).length - 3 = (metaWords h ++ wordsOfBytes h.value).length := by
    rw [length_shareEncode, List.length_append, length_metaWords, length_wordsOfBytes]
    omega
  rw [valueWords, data, shareEncode_eq_append, ← List.append_assoc, List.take_left,
    List.drop_left' (length_metaWords h)]

/-- What decoding the mnemonic of a legal share gives (R237): the share, where its group threshold is at most its group
count, with what the word codec makes of the value (R143). -/
theorem shareDecode_shareEncode (C : Config) (hlegal : legalShare h) {x : Byte} {b : List Byte}
    (hvalue : h.value = x :: b) :
    shareDecode C (shareEncode C h) =
      if h.gc.toNat < h.gt.toNat then .error .invalidGroupThreshold
      else if h.value.length % 5 ≠ 0 then .ok h
      else if x ≠ 0 then .error .invalidPadding
      else .ok { h with value := b } := by
  have fields (v : List Byte) : fieldsOf (shareEncode C h) v = { h with value := v } := by
    rw [shareEncode_eq_append, fieldsOf_metaWords_append v hlegal]
  have gc : gcField (shareEncode C h) = h.gc.toNat := by rw [← toNat_fieldsOf_gc _ [], fields]
  have gt : gtField (shareEncode C h) = h.gt.toNat := by rw [← toNat_fieldsOf_gt _ [], fields]
  have verified : rsVerify C (shareEncode C h) = true := rsVerify_rsCreate C _
  rw [shareDecode_eq_map, if_neg (by simp [verified]), gc, gt, valueWords_shareEncode, hvalue, wordCodecRoundTrip x b]
  refine if_congr Iff.rfl rfl ?_
  rw [apply_ite (Except.map _), apply_ite (Except.map _)]
  refine if_congr Iff.rfl ?_ (if_congr Iff.rfl rfl ?_)
  · rw [← hvalue]
    exact congrArg _ (fields h.value)
  · exact congrArg _ (fields b)

end Sys2Proof.Machine
end

section
/-! PROOFS. `SHDEC` and `CHECK1` (45_share_codec.md R239, R240): both run the whole decode of the words in `W`, and
differ in what they report of the share. -/

namespace Sys2Proof.Machine

open Sys2Proof.Safety

variable {s : State}

/-! ## The decode both commands share -/

theorem decodeW_of_wlen {C : Config} (h : 8 ≤ s.wlen.toNat ∧ s.wlen.toNat ≤ 33) : decodeW C s = shareDecode C s.words :=
  if_neg fun hout => (not_inRange_iff ..).mp hout h

theorem decodeW_of_not_wlen {C : Config} (h : ¬ (8 ≤ s.wlen.toNat ∧ s.wlen.toNat ≤ 33)) :
    decodeW C s = .error .invalidOperand := if_pos ((not_inRange_iff ..).mpr h)

/-- Words that do not decode fail both commands with the same error. -/
theorem exec_of_decodeW_error {e : CmdError} (h : decodeW hardware s = .error e) :
    exec .shdec s = .next { s with status := statusError e } ∧
      exec .check1 s = .next { s with status := statusError e } := by
  have failed {f : Share → State} : (decodeW hardware s).map f = .error e := by rw [h]; rfl
  exact ⟨exec_of_error (i := .shdec) failed, exec_of_error (i := .check1) failed⟩

theorem exec_shdec_of_decodeW {h : Share} (hd : decodeW hardware s = .ok h) :
    exec .shdec s = .next (s.putShare h).succeed ∧ SameBut (mayWrite .shdec s) s (s.putShare h).succeed :=
  exec_of_ok (i := .shdec) (shdecBody_eq_ok.mpr ⟨h, hd, rfl⟩)

theorem exec_check1_of_decodeW {h : Share} (hd : decodeW hardware s = .ok h) :
    exec .check1 s = .next (s.putChecked h).succeed ∧ SameBut (mayWrite .check1 s) s (s.putChecked h).succeed :=
  exec_of_ok (i := .check1) (check1Body_eq_ok.mpr ⟨h, hd, rfl⟩)

/-! ## The statements -/

/-- Settles O51: the mnemonic decodes as `shareDecode_shareEncode` says. -/
theorem shdecAndCheck1ReadTheShare : Obligations.ShdecAndCheck1ReadTheShare := by
  intro s h x b hlegal hvalue hwlen hwords whole v
  have decoded : decodeW hardware s = shareDecode hardware (shareEncode hardware h) := by
    obtain ⟨-, -, -, hlen⟩ := hlegal
    rw [decodeW_of_wlen (hwlen ▸ length_shareEncode_mem hardware hlen), hwords]
  rw [shareDecode_shareEncode hardware hlegal hvalue] at decoded
  refine ⟨fun hgt => ?_, fun ⟨hgt, hfive, hx⟩ => ?_, fun ⟨hgt, hread⟩ => ?_⟩
  · rw [if_pos hgt] at decoded
    exact exec_of_decodeW_error decoded
  · rw [if_neg (Nat.not_lt.mpr hgt), if_neg hfive, if_pos hx] at decoded
    exact exec_of_decodeW_error decoded
  · have read : decodeW hardware s = .ok { h with value := v } := by
      rw [decoded, if_neg (Nat.not_lt.mpr hgt)]
      by_cases hwhole : whole
      · rw [if_pos hwhole, show v = h.value from if_pos hwhole]
      · rw [if_neg hwhole, if_neg (not_not.mpr (hread.resolve_left hwhole)), show v = b from if_neg hwhole]
    exact ⟨(exec_shdec_of_decodeW read).1, (exec_check1_of_decodeW read).1⟩

/-- Settles O52: the four answers of `share_decode`, and the fields cut from the words by the formulas. -/
theorem checksumComesBeforeTrust : Obligations.ChecksumComesBeforeTrust := by
  intro s lenOk w good word bothFail five
  have decoded (hlen : lenOk) : decodeW hardware s = shareDecode hardware w := decodeW_of_wlen hlen
  refine ⟨fun hlen => exec_of_decodeW_error (decodeW_of_not_wlen hlen), fun ⟨hlen, hsum⟩ => ?_,
    fun ⟨⟨hlen, hsum⟩, hgt⟩ => ?_, fun ⟨⟨hlen, hsum⟩, hgt, hpad⟩ => ?_, fun ⟨⟨hlen, hsum⟩, hgt, hpad⟩ => ?_⟩
  · exact exec_of_decodeW_error ((decoded hlen).trans (shareDecode_of_checksum w hardware hsum))
  · exact exec_of_decodeW_error ((decoded hlen).trans (shareDecode_of_threshold hsum hgt))
  · exact exec_of_decodeW_error ((decoded hlen).trans (shareDecode_of_padding hsum hgt hpad))
  · obtain ⟨v, valid, length, integer⟩ := shareDecode_of_valid hsum hgt hpad
    have read := (decoded hlen).trans valid
    have wlen : w.length = s.wlen.toNat := length_words hlen.2
    rw [wlen] at length
    have room : v.length ≤ 32 := length ▸ decodedLength_le (by omega)
    obtain ⟨hshdec, shdecFrame⟩ := exec_shdec_of_decodeW read
    obtain ⟨hcheck, checkFrame⟩ := exec_check1_of_decodeW read
    obtain ⟨len, value⟩ : (s.putShare (fieldsOf w v)).succeed.len.toNat = v.length ∧
        (s.putShare (fieldsOf w v)).succeed.value = v := value_putShare room
    have fields : five (s.putShare (fieldsOf w v)).succeed :=
      ⟨rfl, toNat_fieldsOf_id w v, toNat_fieldsOf_ie w v, toNat_fieldsOf_gi w v, toNat_fieldsOf_mi w v,
        toNat_fieldsOf_mt w v, rfl⟩
    exact ⟨⟨_, hshdec, fields, toNat_fieldsOf_gt w v, toNat_fieldsOf_gc w v, len.trans length, by rw [value, len],
      by rw [value, integer]; rfl, shdecFrame⟩, ⟨_, hcheck, fields, checkFrame⟩⟩

end Sys2Proof.Machine
end

section
/-! PROOFS. The mnemonics `GENERATE` writes (46_orchestrator.md R253, R254), and what becomes of a backup of a secret
whose length is a multiple of 5 (70_reset_and_hazards.md R351): every share's value loses its first byte or fails
to decode. -/

namespace Sys2Proof.Machine

open Sys2Proof.Safety

/-! ## Rows and groups of the state -/

theorem exists_of_mem_groups {s : State} {p : Nat × Nat} (hp : p ∈ s.groups) :
    ∃ g : Fin 16, g.val < s.gc.toNat ∧ p = (s.grpcnt[g].toNat, s.grpthr[g].toNat) := by
  obtain ⟨g, hg, rfl⟩ := List.mem_iff_getElem.mp hp
  have bounds : g < s.gc.toNat ∧ g < 16 := by simpa [State.groups] using hg
  exact ⟨⟨g, bounds.2⟩, bounds.1, by simp [State.groups]⟩

theorem exists_of_mem_rows {s : State} {row : BitVec 6 × Vector Word 33} (hrow : row ∈ s.rows) :
    ∃ k : Fin 256, k.val < s.nsh.toNat ∧ row = (s.mnlen[k], s.mn[k]) := by
  obtain ⟨k, hk, rfl⟩ := List.mem_iff_getElem.mp hrow
  have bounds : k < s.nsh.toNat ∧ k < 256 := by simpa [State.rows] using hk
  exact ⟨⟨k, bounds.2⟩, bounds.1, by simp [State.rows]⟩

theorem length_rows {s : State} (h : s.nsh.toNat ≤ 256) : s.rows.length = s.nsh.toNat := by
  simp [State.rows, h]

/-- A row holds the mnemonic that was put there (R254). -/
theorem holdsMnemonic_putMnemonics (s : State) {out : List (List Word)} (drawn : Nat) (m : Fin 256)
    (hm : m.val < out.length) (hroom : out[m.val].length ≤ 33) :
    holdsMnemonic (s.putMnemonics out drawn) m out[m.val] := by
  have count : (s.putMnemonics out drawn).mnlen[m] = BitVec.ofNat 6 out[m.val].length := by
    simp [getElem_overwrite, hm]
  have length : ((s.putMnemonics out drawn).mnlen[m]).toNat = out[m.val].length := by
    rw [count, BitVec.toNat_ofNat, Nat.mod_eq_of_lt (by omega)]
  have words : (s.putMnemonics out drawn).mn[m] = overwrite s.mn[m] out[m.val] := by
    simp [getElem_overwriteRows, hm]
  exact ⟨length, words ▸ take_toList_overwrite _ _ hroom⟩

/-- A row that holds a mnemonic of 8 to 33 words decodes as the mnemonic does (R261). -/
theorem decodeRow_of_holdsMnemonic (C : Config) {s : State} {m : Fin 256} {ws : List Word} (h : holdsMnemonic s m ws)
    (hlen : 8 ≤ ws.length ∧ ws.length ≤ 33) : decodeRow C (s.mnlen[m], s.mn[m]) = shareDecode C ws := by
  obtain ⟨hlength, hwords⟩ := h
  rw [decodeRow, hlength, hwords, if_neg fun hout => (not_inRange_iff ..).mp hout hlen]

/-! ## Decoding all rows (R261) -/

/-- If every row gives the same error or a share with a property, so do the rows together. -/
theorem decodeRows_error_or_ok {C : Config} {e : CmdError} {P : Share → Prop} {rows : List (BitVec 6 × Vector Word 33)}
    (h : ∀ row ∈ rows, decodeRow C row = .error e ∨ ∃ share, decodeRow C row = .ok share ∧ P share) :
    decodeRows C rows = .error e ∨
      ∃ shares, decodeRows C rows = .ok shares ∧ shares.length = rows.length ∧ ∀ share ∈ shares, P share := by
  induction rows with
  | nil => exact .inr ⟨[], rfl, rfl, by simp⟩
  | cons row rows ih =>
    obtain ⟨hrow, hrows⟩ := List.forall_mem_cons.mp h
    rcases hrow with hrow | ⟨share, hrow, hshare⟩
    · exact .inl (by rw [decodeRows, hrow]; rfl)
    · rcases ih hrows with hrest | ⟨shares, hrest, hlen, hshares⟩
      · exact .inl (by rw [decodeRows, hrow, hrest]; rfl)
      · exact .inr ⟨share :: shares, decodeRows_cons_ok.mpr ⟨share, shares, hrow, hrest, rfl⟩, by simp [hlen],
          List.forall_mem_cons.mpr ⟨hshare, hshares⟩⟩

/-! ## Recovery that fails -/

section
variable {C : Config} {s : State} (hnsh : s.nsh.toNat ≤ 256) (hplen : s.plen.toNat ≤ C.passMax.val) (hpos : s.nsh ≠ 0)
include hnsh hplen hpos

theorem recoverBody_of_decodeRows_error {e : CmdError} (h : decodeRows C s.rows = .error e) :
    recoverBody C s = .error e := by
  rw [recoverBody, if_neg (Nat.not_lt.mpr hnsh), if_neg (Nat.not_lt.mpr hplen), if_neg hpos, h]
  rfl

theorem recoverBody_of_recoverShares_error {h0 : Share} {hs : List Share} {e : CmdError}
    (h : decodeRows C s.rows = .ok (h0 :: hs)) (he : recoverShares C s.passphrase h0 hs = .error e) :
    recoverBody C s = .error e := by
  rw [recoverBody, if_neg (Nat.not_lt.mpr hnsh), if_neg (Nat.not_lt.mpr hplen), if_neg hpos, h]
  show (recoverShares C s.passphrase h0 hs).map s.putValue = _
  rw [he]
  rfl

end

theorem sameBackup_iff (h0 h : Share) : sameBackup h0 h = true ↔ sameFour h h0 := by
  simp [sameBackup, sameFour, and_assoc]

/-- Shares of one backup whose values are no master secret (R262, R263). -/
theorem recoverShares_of_length {C : Config} {pp : List Byte} {h0 : Share} {hs : List Share}
    (hsame : ∀ h ∈ hs, sameFour h h0)
    (hlen : ¬ (16 ≤ h0.value.length ∧ h0.value.length ≤ 32 ∧ h0.value.length % 2 = 0)) :
    recoverShares C pp h0 hs = .error .invalidSecretLength := by
  have all : hs.all (sameBackup h0) = true := List.all_eq_true.mpr fun h hh => (sameBackup_iff h0 h).mpr (hsame h hh)
  rw [← secretLengthOk_iff, Bool.not_eq_true, ← Bool.not_eq_true'] at hlen
  rw [recoverShares, if_neg (by simp [all]), if_pos hlen]

/-! ## What is generated -/

/-- What the shares of one generation have in common with its parameters (R253), and the legal range of their member
threshold. -/
structure MemberShare (base : Share) (n : Nat) (h : Share) : Prop where
  id : h.id = base.id
  ie : h.ie = base.ie
  gt : h.gt = base.gt
  gc : h.gc = base.gc
  mt : 1 ≤ h.mt.toNat ∧ h.mt.toNat ≤ 16
  length : h.value.length = n

theorem exists_share_of_mem_memberMnemonics {C : Config} {base : Share} {drawn g n : Nat} {groups : List (Nat × Nat)}
    {gsh : List (List Byte)} {ws : List Word} (hgroups : ∀ p ∈ groups, 1 ≤ p.2 ∧ p.2 ≤ 16) (hn : 4 ≤ n)
    (hgsh : ∀ y ∈ gsh, y.length = n) (hws : ws ∈ memberMnemonics C base drawn g groups gsh) :
    ∃ h, ws = shareEncode C h ∧ MemberShare base n h := by
  induction groups generalizing drawn g gsh with
  | nil => cases gsh <;> simp [memberMnemonics] at hws
  | cons group groups ih =>
    cases gsh with
    | nil => simp [memberMnemonics] at hws
    | cons y gsh =>
      obtain ⟨⟨hmin, hmax⟩, hgroups⟩ := List.forall_mem_cons.mp hgroups
      obtain ⟨hy, hgsh⟩ := List.forall_mem_cons.mp hgsh
      rw [memberMnemonics, List.mem_append, List.mem_map] at hws
      rcases hws with ⟨⟨v, m⟩, hv, rfl⟩ | hws
      · have share : v.length = y.length :=
          length_of_mem_shamirSplit C _ _ _ _ (by omega) _ (List.fst_mem_of_mem_zipIdx hv)
        have threshold : (BitVec.ofNat 5 group.2).toNat = group.2 := by
          rw [BitVec.toNat_ofNat, Nat.mod_eq_of_lt (by omega)]
        exact ⟨_, rfl, rfl, rfl, rfl, rfl, by rw [threshold]; exact ⟨hmin, hmax⟩, share.trans hy⟩
      · exact ih hgroups hgsh hws

theorem exists_share_of_mem_generate {C : Config} {drawn : Nat} {ms : List Byte} {base : Share} {pp : List Byte}
    {groups : List (Nat × Nat)} {ws : List Word} (hgroups : ∀ p ∈ groups, 1 ≤ p.2 ∧ p.2 ≤ 16) (hmin : 4 ≤ ms.length)
    (heven : ms.length % 2 = 0) (hws : ws ∈ generate C drawn ms base.ie base.id pp base.gt base.gc groups) :
    ∃ h, ws = shareEncode C h ∧ MemberShare base ms.length h := by
  have ems : (feistelEncrypt C ms base.id base.ie pp).length = ms.length := length_feistel _ _ _ _ _ _ heven
  have gsh : ∀ y ∈ shamirSplit C drawn base.gc.toNat base.gt.toNat (feistelEncrypt C ms base.id base.ie pp),
      y.length = ms.length :=
    fun y hy => (length_of_mem_shamirSplit C _ _ _ _ (by omega) y hy).trans ems
  obtain ⟨h, rfl, hid, hie, hgt, hgc, hmt, hlen⟩ := exists_share_of_mem_memberMnemonics hgroups hmin gsh hws
  exact ⟨h, rfl, hid, hie, hgt, hgc, hmt, hlen⟩

/-- `GENERATE` succeeds on legal operands (R252). -/
theorem exists_generateBody {C : Config} {s : State}
    (hgrp : 1 ≤ s.gt.toNat ∧ s.gt.toNat ≤ s.gc.toNat ∧ s.gc.toNat ≤ 16)
    (hlen : 16 ≤ s.len.toNat ∧ s.len.toNat ≤ 32 ∧ s.len.toNat % 2 = 0) (hplen : s.plen.toNat ≤ C.passMax.val)
    (hgroups : ∀ g : Fin 16, g.val < s.gc.toNat →
      1 ≤ s.grpthr[g].toNat ∧ s.grpthr[g].toNat ≤ s.grpcnt[g].toNat ∧ s.grpcnt[g].toNat ≤ 16) :
    ∃ t, generateBody C s = .ok t := by
  refine ⟨_, generateBody_eq_ok.mpr ⟨hgrp, hlen, fun p hp => ?_, hplen, rfl⟩⟩
  obtain ⟨g, hg, rfl⟩ := exists_of_mem_groups hp
  exact hgroups g hg

/-- Every row below `NSH` of the state `GENERATE` leaves holds the mnemonic of a member's share (R254). -/
theorem exists_share_of_generateBody {C : Config} {s t : State} (h : generateBody C s = .ok t) {m : Fin 256}
    (hm : m.val < t.nsh.toNat) : ∃ share, MemberShare s.shareRecord s.len.toNat share ∧
      holdsMnemonic t m (shareEncode C share) := by
  obtain ⟨-, ⟨hmin, hmax, heven⟩, hgroups, -, rfl⟩ := generateBody_eq_ok.mp h
  have hvalue : s.value.length = s.len.toNat := length_value hmax
  rw [State.putMnemonics_nsh, BitVec.toNat_ofNat] at hm
  have hm := hm.trans_le (Nat.mod_le _ _)
  obtain ⟨share, hshare, member⟩ := exists_share_of_mem_generate (base := s.shareRecord)
    (fun p hp => ⟨(hgroups p hp).1, (hgroups p hp).2.1.trans (hgroups p hp).2.2⟩) (by omega) (by omega)
    (List.getElem_mem hm)
  rw [hvalue] at member
  obtain ⟨-, room⟩ := length_shareEncode_mem C (h := share) (by rw [member.length]; omega)
  refine ⟨share, member, ?_⟩
  rw [← hshare] at room ⊢
  exact holdsMnemonic_putMnemonics s _ m hm room

/-! ## A length that is a multiple of 5 (R351) -/

/-- A generated mnemonic of such a length fails to decode, or gives a value without its first byte (R143, R237). -/
theorem shareDecode_of_memberShare {C : Config} {base h : Share} {n : Nat} (hm : MemberShare base n h)
    (hbase : 1 ≤ base.gt.toNat ∧ base.gt.toNat ≤ base.gc.toNat ∧ base.gc.toNat ≤ 16) (hn : 1 ≤ n ∧ n ≤ 32)
    (hfive : n % 5 = 0) : shareDecode C (shareEncode C h) = .error .invalidPadding ∨
      ∃ h', shareDecode C (shareEncode C h) = .ok h' ∧ MemberShare base (n - 1) h' := by
  obtain ⟨hid, hie, hgt, hgc, hmt, rfl⟩ := hm
  have hlegal : legalShare h := by
    rw [legalShare, hgt, hgc]
    exact ⟨by omega, by omega, hmt, hn⟩
  obtain ⟨x, b, hvalue⟩ := List.exists_cons_of_length_pos hn.1
  have ordered : ¬ h.gc.toNat < h.gt.toNat := by
    rw [hgt, hgc]
    omega
  rw [shareDecode_shareEncode C hlegal hvalue, if_neg ordered, if_neg (not_not.mpr hfive)]
  by_cases hx : x = 0
  · rw [if_neg (not_not.mpr hx)]
    exact .inr ⟨_, rfl, hid, hie, hgt, hgc, hmt, by simp [hvalue]⟩
  · exact .inl (if_pos hx)

/-- The same of each row `GENERATE` wrote. -/
theorem decodeRow_of_generateBody {C : Config} {s t : State} (hgen : generateBody C s = .ok t)
    (hfive : s.len.toNat % 5 = 0) {m : Fin 256} (hm : m.val < t.nsh.toNat) :
    decodeRow C (t.mnlen[m], t.mn[m]) = .error .invalidPadding ∨
      ∃ h, decodeRow C (t.mnlen[m], t.mn[m]) = .ok h ∧ MemberShare s.shareRecord (s.len.toNat - 1) h := by
  obtain ⟨hgrp, ⟨hmin, hmax, -⟩, -⟩ := generateBody_eq_ok.mp hgen
  obtain ⟨share, member, holds⟩ := exists_share_of_generateBody hgen hm
  have bounds : 1 ≤ share.value.length ∧ share.value.length ≤ 32 := by
    rw [member.length]
    omega
  rw [decodeRow_of_holdsMnemonic C holds (length_shareEncode_mem C bounds)]
  exact shareDecode_of_memberShare member hgrp (member.length ▸ bounds) hfive

theorem MemberShare.sameFour {base a b : Share} {n : Nat} (ha : MemberShare base n a) (hb : MemberShare base n b) :
    sameFour a b :=
  ⟨ha.id.trans hb.id.symm, ha.ie.trans hb.ie.symm, ha.gt.trans hb.gt.symm, ha.length.trans hb.length.symm⟩

/-- Settles O60: each chosen row is a generated mnemonic, so it fails with `InvalidPadding` or gives one of the shares
of 19 or 29 bytes, which agree with each other and are no shares of a master secret. -/
theorem lengthTwentyAndThirtyFail : Obligations.LengthTwentyAndThirtyFail := by
  intro s hmin hthr hmax hlen hplen hgroups
  have legal : 16 ≤ s.len.toNat ∧ s.len.toNat ≤ 32 ∧ s.len.toNat % 2 = 0 := by
    rcases hlen with hlen | hlen <;> rw [hlen] <;> decide
  have five : s.len.toNat % 5 = 0 := by
    rcases hlen with hlen | hlen <;> rw [hlen] <;> decide
  obtain ⟨t, hgen⟩ := exists_generateBody (C := hardware) ⟨hmin, hthr, hmax⟩ legal hplen hgroups
  refine ⟨t.succeed, (exec_of_ok (i := .generate) hgen).1, rfl, fun rows r hne hrows hmem hnsh hcopy hplen => ?_⟩
  have decoded : ∀ row ∈ r.rows, decodeRow hardware row = .error .invalidPadding ∨
      ∃ h, decodeRow hardware row = .ok h ∧ MemberShare s.shareRecord (s.len.toNat - 1) h := by
    intro row hrow
    obtain ⟨k, hk, rfl⟩ := exists_of_mem_rows hrow
    have chosen : rows[k.val]? = some rows[k.val] := List.getElem?_eq_getElem (hnsh ▸ hk)
    obtain ⟨hmn, hmnlen⟩ := hcopy k _ chosen
    rw [hmn, hmnlen]
    exact decodeRow_of_generateBody hgen five (hmem _ (List.mem_of_getElem? chosen))
  have hpos : r.nsh ≠ 0 := fun h0 => hne (List.length_eq_zero_iff.mp (by rw [← hnsh, h0]; rfl))
  have hcount : r.nsh.toNat ≤ 256 := hnsh ▸ hrows
  rcases decodeRows_error_or_ok decoded with herror | ⟨shares, hok, hlength, hshares⟩
  · exact .inl (exec_of_error (i := .recover) (recoverBody_of_decodeRows_error hcount hplen hpos herror))
  · rw [length_rows hcount, hnsh] at hlength
    obtain ⟨h0, hs, rfl⟩ := List.exists_cons_of_length_pos (hlength ▸ List.length_pos_of_ne_nil hne)
    obtain ⟨first, others⟩ := List.forall_mem_cons.mp hshares
    have odd : h0.value.length % 2 = 1 := by
      rw [first.length]
      omega
    have noSecret := recoverShares_of_length (C := hardware) (pp := r.passphrase)
      (fun h hh => (others h hh).sameFour first) (by omega)
    exact .inr (exec_of_error (i := .recover) (recoverBody_of_recoverShares_error hcount hplen hpos hok noSecret))

end Sys2Proof.Machine
end

section
/-! PROOFS. The RS1024 checksum (42_rs1024.md R160 to R168): the 30-bit recurrence against the one on unbounded numbers,
its affinity, what makes every single bit flip visible, and the three commands. -/

namespace Sys2Proof.Machine

open Sys2Proof.Safety

/-! ## The 30-bit state against unbounded numbers (R160) -/

/-- One input value into an unbounded state, the step of `polymodNat` (R160). -/
def polyStepNat (gen : Nat → Nat) (state v : Nat) : Nat :=
  (List.range 10).foldl (fun st b => if (state >>> 20).testBit b then st ^^^ gen b else st)
    (((state &&& 0xFFFFF) <<< 10) ^^^ v)

theorem polymodNat_eq_foldl (gen : Nat → Nat) (values : List Nat) :
    polymodNat gen values = values.foldl (polyStepNat gen) 1 := rfl

/-- The 20 bits that stay move up by ten, so that none is lost. -/
theorem toNat_and_mask_shiftLeft (s : Checksum) : ((s &&& 0xFFFFF) <<< 10).toNat = (s.toNat &&& 0xFFFFF) <<< 10 := by
  have kept : s.toNat &&& 0xFFFFF ≤ 0xFFFFF := Nat.and_le_right
  show (s.toNat &&& 0xFFFFF) <<< 10 % 2 ^ 30 = (s.toNat &&& 0xFFFFF) <<< 10
  rw [Nat.shiftLeft_eq, Nat.mod_eq_of_lt (by omega)]

theorem toNat_polyStep (C : Config) (s : Checksum) (v : Word) :
    (polyStep C s v).toNat = polyStepNat (fun b => (C.gen b).toNat) s.toNat v.toNat := by
  have entered : ((s.toNat &&& 0xFFFFF) <<< 10) ^^^ v.toNat = (((s &&& 0xFFFFF) <<< 10) ^^^ v.setWidth 30).toNat := by
    rw [BitVec.toNat_xor, toNat_and_mask_shiftLeft, BitVec.toNat_setWidth_of_le (by decide)]
  rw [polyStep, polyStepNat, entered]
  refine (List.foldl_hom BitVec.toNat fun st b => ?_).symm
  rw [BitVec.getLsbD, BitVec.toNat_ushiftRight, apply_ite BitVec.toNat, BitVec.toNat_xor]

/-- Settles O29: the two recurrences agree step by step. -/
theorem polymodNeverTruncates : Obligations.PolymodNeverTruncates := by
  intro C values
  rw [polymodNat_eq_foldl, List.foldl_map]
  exact (List.foldl_hom BitVec.toNat fun s v => (toNat_polyStep C s v).symm).symm

/-- The customized words as numbers: the six bytes of "shamir" come first (R162). -/
theorem toNat_customPolymod (C : Config) (ws : List Word) :
    (customPolymod C ws).toNat =
      polymodNat (fun b => (C.gen b).toNat) ([115, 104, 97, 109, 105, 114] ++ ws.map BitVec.toNat) := by
  rw [customPolymod, polymodNeverTruncates, List.map_append]
  rfl

/-! ## Linearity (R165) -/

/-- Settles O31: the checksum words add to the `polymod` what it lacks of 1, for sequences of any length. -/
theorem createdChecksumVerifies : Obligations.CreatedChecksumVerifies := fun C w _ => rsVerify_rsCreate C w

/-- Settles O32: the fold is linear in the initial state and the words together, and the initial state 1 is the
exclusive or of the three initial states 1. -/
theorem polymodIsAffine : Obligations.PolymodIsAffine := by
  intro C u v h
  let uv := List.zipWith (· ^^^ ·) u v
  let zeros : List Word := List.replicate u.length 0
  have length : uv.length = zeros.length := by simp [uv, zeros, h]
  have addZeros : List.zipWith (· ^^^ ·) uv zeros = uv :=
    List.ext_getElem (by simp [length]) fun i _ _ => by simp [zeros]
  calc polymod C uv
      = (List.zipWith (· ^^^ ·) uv zeros).foldl (polyStep C) ((1 ^^^ 1) ^^^ 1) := by rw [addZeros]; rfl
    _ = uv.foldl (polyStep C) (1 ^^^ 1) ^^^ zeros.foldl (polyStep C) 1 := foldl_polyStep_xor C length _ _
    _ = polymod C u ^^^ polymod C v ^^^ polymod C zeros := by rw [foldl_polyStep_xor C h]; rfl

/-! ## Single bit flips (R165(c))

A step is injective in the value, for every table, and injective in the state, for the default table. So two runs that
differ in one word differ from there on. -/

/-- The generators that the low ten bits of `top` select. -/
def selectedGens (C : Config) (top : Checksum) : Checksum :=
  (List.range 10).foldl (fun st b => if top.getLsbD b then st ^^^ C.gen b else st) 0

/-- The three parts of a step: the state moved up, the value, and the generators the old top bits select (R160). -/
theorem polyStep_eq_xor (C : Config) (s : Checksum) (v : Word) :
    polyStep C s v = (s <<< 10) ^^^ v.setWidth 30 ^^^ selectedGens C (s >>> 20) := by
  rw [polyStep, shiftLeft_and_mask, selectedGens]
  conv_lhs => rw [← BitVec.xor_zero (x := (s <<< 10) ^^^ v.setWidth 30)]
  refine List.foldl_hom _ fun st b => ?_
  rw [apply_ite (fun x => (s <<< 10) ^^^ v.setWidth 30 ^^^ x), BitVec.xor_assoc _ st]

@[simp] theorem selectedGens_zero (C : Config) : selectedGens C 0 = 0 := by
  simp only [selectedGens, BitVec.ofNat_eq_ofNat, BitVec.getLsbD_zero, Bool.false_eq_true, if_false]
  exact List.foldl_fixed _

/-- A step loses nothing of the value, under any table. -/
theorem polyStep_injective_value (C : Config) (s : Checksum) {u v : Word} (h : polyStep C s u = polyStep C s v) :
    u = v := by
  rw [polyStep_eq_xor, polyStep_eq_xor, BitVec.xor_left_inj, BitVec.xor_right_inj] at h
  simpa using congrArg (BitVec.setWidth 10) h

theorem getLsbD_selectedGens (C : Config) (top : Checksum) (i : Nat) :
    (selectedGens C top).getLsbD i =
      (List.range 10).foldl (fun p b => p ^^ (top.getLsbD b && (C.gen b).getLsbD i)) false := by
  rw [← BitVec.getLsbD_zero (w := 30) (i := i)]
  refine (List.foldl_hom (fun st : Checksum => st.getLsbD i) fun st b => ?_).symm
  rw [ite_xor_eq, BitVec.getLsbD_xor]
  cases top.getLsbD b <;> simp

/-- The low ten bits of the generators of the default table are independent: selections 3 to 6 stand alone in bits 9, 0,
1 and 2, and each of the other bits adds one selection to one that is known by then (R161). -/
theorem getLsbD_of_selectedGens_low {top : Checksum}
    (h : ∀ i < 10, (selectedGens hardware top).getLsbD i = false) : ∀ b < 10, top.getLsbD b = false := by
  have low (i : Fin 10) := (getLsbD_selectedGens hardware top i).symm.trans (h i i.isLt)
  simp only [hardware, configWith, genTable, genList, List.range_succ] at low
  have sel3 : top[3] = false := by simpa using low 9
  have sel4 : top[4] = false := by simpa using low 0
  have sel5 : top[5] = false := by simpa using low 1
  have sel6 : top[6] = false := by simpa using low 2
  have sel7 : top[4] = top[7] := by simpa using low 3
  have sel8 : top[5] = top[8] := by simpa using low 4
  have sel9 : top[6] = top[9] := by simpa using low 5
  have sel0 : top[0] = top[7] := by simpa using low 6
  have sel1 : top[1] = top[8] := by simpa using low 7
  have sel2 : top[2] = top[9] := by simpa using low 8
  intro b hb
  interval_cases b <;> simp [sel0, sel1, sel2, sel3, sel4, sel5, sel6, ← sel7, ← sel8, ← sel9]

/-- No state but 0 is taken to 0: the low ten bits of the result show that the top ten are 0, so no generator was
brought in, and the bits below only moved up. -/
theorem eq_zero_of_polyStep_hardware {s : Checksum} (h : polyStep hardware s 0 = 0) : s = 0 := by
  have sum : (s <<< 10) ^^^ selectedGens hardware (s >>> 20) = 0 := by simpa [polyStep_eq_xor] using h
  have moved : s <<< 10 = selectedGens hardware (s >>> 20) := BitVec.xor_eq_zero_iff.mp sum
  have low (i : Nat) (hi : i < 10) : (selectedGens hardware (s >>> 20)).getLsbD i = false := by
    rw [← moved]
    simp [hi]
  have top : s >>> 20 = 0 := by
    refine BitVec.eq_of_getLsbD_eq fun i _ => ?_
    by_cases hi : i < 10
    · simpa using getLsbD_of_selectedGens_low low i hi
    · simp [BitVec.getLsbD_of_ge s (20 + i) (by omega)]
  rw [top, selectedGens_zero] at moved
  have high : s.toNat >>> 20 = 0 := congrArg BitVec.toNat top
  have rest : s.toNat <<< 10 % 2 ^ 30 = 0 := congrArg BitVec.toNat moved
  rw [Nat.shiftRight_eq_div_pow] at high
  rw [Nat.shiftLeft_eq] at rest
  exact BitVec.eq_of_toNat_eq (show s.toNat = 0 by omega)

theorem polyStep_hardware_injective_state {s t : Checksum} {v : Word}
    (h : polyStep hardware s v = polyStep hardware t v) : s = t := by
  have difference : polyStep hardware (s ^^^ t) 0 = 0 := by
    have step := polyStep_xor hardware s t v v
    rwa [h, BitVec.xor_self, BitVec.xor_self] at step
  exact BitVec.xor_eq_zero_iff.mp (eq_zero_of_polyStep_hardware difference)

theorem foldl_polyStep_hardware_injective {s t : Checksum} {ws : List Word}
    (h : ws.foldl (polyStep hardware) s = ws.foldl (polyStep hardware) t) : s = t := by
  induction ws generalizing s t with
  | nil => exact h
  | cons v ws ih => exact polyStep_hardware_injective_state (ih h)

/-- Two sequences that differ in one word alone have different checksums. -/
theorem customPolymod_hardware_injective_word {before after : List Word} {x y : Word}
    (h : customPolymod hardware (before ++ x :: after) = customPolymod hardware (before ++ y :: after)) : x = y := by
  simp only [customPolymod, polymod, List.foldl_append, List.foldl_cons] at h
  exact polyStep_injective_value hardware _ (foldl_polyStep_hardware_injective h)

/-- Settles O33: the flipped sequence differs in one word alone, so the two cannot both have the checksum 1. -/
theorem singleBitFlipIsDetected : Obligations.SingleBitFlipIsDetected := by
  intro w k bit verifies
  rw [← Bool.not_eq_true]
  intro flipped
  have same : customPolymod hardware w = customPolymod hardware (w.set k (w[k] ^^^ BitVec.twoPow 10 bit)) :=
    (beq_iff_eq.mp verifies).trans (beq_iff_eq.mp flipped).symm
  have unflipped : w = w.take k ++ w[k] :: w.drop (k + 1) := by simp
  rw [List.set_eq_take_append_cons_drop, if_pos k.isLt] at same
  conv_lhs at same => rw [unflipped]
  have unchanged := customPolymod_hardware_injective_word same
  have kept : w[k].getLsbD bit = !w[k].getLsbD bit := by
    conv_lhs => rw [unchanged]
    simp
  exact (Bool.eq_not_self _).mp kept

/-! ## The commands (R166 to R168) -/

variable {s : State}

theorem words_putW {ws : List Word} (h : ws.length = s.wlen.toNat) (hmax : s.wlen.toNat ≤ 33) :
    (s.putW ws).words = ws := by
  rw [State.words, State.putW_w, State.putW_wlen, ← h]
  exact take_toList_overwrite _ _ (h ▸ hmax)

theorem rspolyBody_of_wlen (C : Config) (h : 33 < s.wlen.toNat) : rspolyBody C s = .error .invalidOperand :=
  if_pos ((not_inRange_iff ..).mpr (by omega))

theorem rscreateBody_of_wlen (C : Config) (h : ¬ (3 ≤ s.wlen.toNat ∧ s.wlen.toNat ≤ 33)) :
    rscreateBody C s = .error .invalidOperand := if_pos ((not_inRange_iff ..).mpr h)

theorem rsverifyBody_of_wlen (C : Config) (h : ¬ (3 ≤ s.wlen.toNat ∧ s.wlen.toNat ≤ 33)) :
    rsverifyBody C s = .error .invalidOperand := if_pos ((not_inRange_iff ..).mpr h)

/-- The verdict of `RSVERIFY` goes to `RES`, good or bad (R168). -/
theorem exec_rsverify (h : 3 ≤ s.wlen.toNat ∧ s.wlen.toNat ≤ 33) :
    exec .rsverify s = .next (s.putRes (if rsVerify hardware s.words then 1 else 0)).succeed :=
  (exec_of_ok (i := .rsverify) (rsverifyBody_eq_ok.mpr ⟨h, rfl⟩)).1

/-- A sequence verifies when the recurrence on unbounded numbers gives 1 (R160, R164). -/
theorem rsVerify_iff_polymodNat (C : Config) (ws : List Word) :
    rsVerify C ws = true ↔
      polymodNat (fun b => (C.gen b).toNat) ([115, 104, 97, 109, 105, 114] ++ ws.map BitVec.toNat) = 1 := by
  rw [← toNat_customPolymod, rsVerify, beq_iff_eq, ← BitVec.toNat_inj]
  rfl

/-- Settles O30: `RES` is wide enough for the 30 bits of the checksum. -/
theorem rspolyResult : Obligations.RspolyResult := by
  refine fun s => ⟨fun hmax => ?_, fun hlong => ?_⟩
  · have body : commandBody hardware .rspoly s = .ok (s.putRes ((customPolymod hardware s.words).setWidth 32)) :=
      rspolyBody_eq_ok.mpr ⟨hmax, rfl⟩
    obtain ⟨he, frame⟩ := exec_of_ok body
    have res : ((customPolymod hardware s.words).setWidth 32).toNat = _ :=
      (BitVec.toNat_setWidth_of_le (by decide)).trans (toNat_customPolymod hardware s.words)
    exact ⟨_, he, rfl, res, frame, rfl⟩
  · exact exec_of_error (i := .rspoly) (rspolyBody_of_wlen hardware hlong)

/-- Settles O34: `W` holds what `rs_create` returned, which verifies. -/
theorem rscreateThenRsverifyGivesOne : Obligations.RscreateThenRsverifyGivesOne := by
  intro s hmin hmax
  have body : commandBody hardware .rscreate s = .ok (s.putW (rsCreate hardware s.words)) :=
    rscreateBody_eq_ok.mpr ⟨⟨hmin, hmax⟩, rfl⟩
  obtain ⟨he, frame⟩ := exec_of_ok body
  have count := length_words hmax
  have words : (s.putW (rsCreate hardware s.words)).succeed.words = rsCreate hardware s.words :=
    words_putW ((length_rsCreate _ _ (by omega)).trans count) hmax
  have verdict := exec_rsverify (s := (s.putW (rsCreate hardware s.words)).succeed) ⟨hmin, hmax⟩
  rw [words, rsVerify_rsCreate, if_pos rfl] at verdict
  exact ⟨_, _, he, rfl, frame, rfl, verdict, rfl⟩

/-- Settles O35: the verdict read on unbounded numbers, and the range check both commands share. -/
theorem rsverifyReportsInRes : Obligations.RsverifyReportsInRes := by
  refine fun s => ⟨fun hwlen => ?_, fun hwlen => ⟨?_, ?_⟩⟩
  · rw [exec_rsverify hwlen, if_congr (rsVerify_iff_polymodNat hardware s.words) rfl rfl]
    rfl
  · exact exec_of_error (i := .rsverify) (rsverifyBody_of_wlen hardware hwlen)
  · exact exec_of_error (i := .rscreate) (rscreateBody_of_wlen hardware hwlen)

end Sys2Proof.Machine
end

section
/-! PROOFS. GF(256) as a field (40_gf256.md R122, R123): bytes under exclusive or and the product by shift and
add. `BitVec 8` carries another arithmetic, so what needs Mathlib's polynomials is said of any field the bytes are
encoded in. -/

namespace Sys2Proof.Machine

open Sys2Proof.Safety

/-! ## Products and inverses of bytes -/

/-- Every element but 0 is a power of the generator. -/
theorem exists_powThree {a : Byte} (ha : a ≠ 0) : ∃ n, powThree n = a := ⟨_, powThree_log ha⟩

theorem shiftAddMul_comm (a b : Byte) : shiftAddMul a b = shiftAddMul b a := by
  simp only [← gfMul_hardware, gfMul, or_comm, Nat.add_comm]

theorem shiftAddMul_one_right (a : Byte) : shiftAddMul a 1 = a := by
  rw [shiftAddMul_comm, shiftAddMul_one_left]

theorem shiftAddMul_assoc (a b c : Byte) :
    shiftAddMul (shiftAddMul a b) c = shiftAddMul a (shiftAddMul b c) := by
  rcases eq_or_ne a 0 with rfl | ha
  · simp only [shiftAddMul_zero_left]
  rcases eq_or_ne b 0 with rfl | hb
  · simp only [shiftAddMul_zero_left, shiftAddMul_zero_right]
  rcases eq_or_ne c 0 with rfl | hc
  · simp only [shiftAddMul_zero_right]
  obtain ⟨l, rfl⟩ := exists_powThree ha
  obtain ⟨m, rfl⟩ := exists_powThree hb
  obtain ⟨n, rfl⟩ := exists_powThree hc
  simp only [shiftAddMul_powThree, Nat.add_assoc]

theorem powThree_zero : powThree 0 = 1 := rfl

/-- The inverse of a power of the generator, as its 254th power. -/
theorem gfInv_powThree (n : Nat) : gfInv (powThree n) = powThree (n * 254) := by
  have power (k : Nat) : (fun x => shiftAddMul x (powThree n))^[k] 1 = powThree (n * k) := by
    induction k with
    | zero => rfl
    | succ k ih => rw [Function.iterate_succ_apply', ih, shiftAddMul_powThree, Nat.mul_succ]
  exact power 254

theorem gfInv_zero : gfInv 0 = 0 :=
  (Function.iterate_succ_apply' _ 253 1).trans (shiftAddMul_zero_right _)

theorem shiftAddMul_gfInv {a : Byte} (ha : a ≠ 0) : shiftAddMul a (gfInv a) = 1 := by
  obtain ⟨n, rfl⟩ := exists_powThree ha
  rw [gfInv_powThree, shiftAddMul_powThree, ← powThree_mod, show (n + n * 254) % 255 = 0 by omega, powThree_zero]

/-! ## The field -/

/-- The field of R122: exclusive or is the sum and every element its own negative. Not the arithmetic modulo 256 that
`BitVec 8` carries. -/
@[reducible] def gf256 : Field Byte :=
  @Field.ofMinimalAxioms Byte ⟨fun a b => a ^^^ b⟩ ⟨shiftAddMul⟩ ⟨id⟩ ⟨gfInv⟩ ⟨0⟩ ⟨1⟩
    BitVec.xor_assoc (fun _ => BitVec.zero_xor) (fun _ => BitVec.xor_self)
    shiftAddMul_assoc shiftAddMul_comm shiftAddMul_one_left (fun _ => shiftAddMul_gfInv) gfInv_zero shiftAddMul_xor
    ⟨0#8, 1#8, by decide⟩

/-- An encoding of the bytes in a field that turns exclusive or into the sum and the product by shift and add into the
product. -/
structure FieldEncoding {F : Type} [Field F] (φ : Byte → F) : Prop where
  injective : Function.Injective φ
  map_xor : ∀ a b, φ (a ^^^ b) = φ a + φ b
  map_mul : ∀ a b, φ (shiftAddMul a b) = φ a * φ b

theorem exists_fieldEncoding : ∃ (F : Type) (_ : Field F) (φ : Byte → F), FieldEncoding φ :=
  ⟨Byte, gf256, id, @FieldEncoding.mk Byte gf256 id (fun _ _ h => h) (fun _ _ => rfl) (fun _ _ => rfl)⟩

namespace FieldEncoding

variable {F : Type} [Field F] {φ : Byte → F} (hφ : FieldEncoding φ)
include hφ

theorem map_zero : φ 0 = 0 := by
  have h : φ 0 = φ 0 + φ 0 := hφ.map_xor 0 0
  rwa [left_eq_add] at h

theorem map_one : φ 1 = 1 := by
  have ne : φ 1 ≠ 0 := fun h => absurd (hφ.injective (h.trans hφ.map_zero.symm)) (by decide)
  have h : φ 1 = φ 1 * φ 1 := hφ.map_mul 1 1
  rwa [left_eq_mul₀ ne] at h

/-- Exclusive or is also the difference. -/
theorem map_xor_eq_sub (a b : Byte) : φ (a ^^^ b) = φ a - φ b := by
  rw [eq_sub_iff_add_eq, ← hφ.map_xor, BitVec.xor_assoc, BitVec.xor_self, BitVec.xor_zero]

theorem map_inv (a : Byte) : φ (gfInv a) = (φ a)⁻¹ := by
  rcases eq_or_ne a 0 with rfl | ha
  · rw [gfInv_zero, hφ.map_zero, inv_zero]
  · refine eq_inv_of_mul_eq_one_right ?_
    rw [← hφ.map_mul, shiftAddMul_gfInv ha, hφ.map_one]

end FieldEncoding

end Sys2Proof.Machine
end

section
/-! PROOFS. The polynomial through given points (43_shamir.md R183), one lane at a time: the Lagrange sum over GF(256)
is the value of Mathlib's interpolation polynomial, so it takes the given values at the given x values, and as many of
its values as there are points determine it. -/

namespace Sys2Proof.Machine

open Sys2Proof.Safety

/-- Lane `k` of every point. -/
def lane (k : Nat) (pts : List (Byte × List Byte)) : List (Byte × Byte) := pts.map (fun p => (p.1, p.2.getD k 0))

@[simp] theorem length_lane (k : Nat) (pts : List (Byte × List Byte)) : (lane k pts).length = pts.length := by
  simp [lane]

@[simp] theorem map_fst_lane (k : Nat) (pts : List (Byte × List Byte)) :
    (lane k pts).map Prod.fst = pts.map Prod.fst := by simp [lane]

/-- The Lagrange sum of one lane, the other points of each point being all but itself. -/
def lagrangeLane (pts : List (Byte × Byte)) (q : Byte) : Byte :=
  pts.foldl (fun acc p => acc ^^^ shiftAddMul p.2 (lagrangeCoeff q p.1 ((pts.erase p).map Prod.fst))) 0

theorem eraseIdx_map_fst {pts : List (Byte × Byte)} (hpts : (pts.map Prod.fst).Nodup) {i : Nat} (hi : i < pts.length) :
    (pts.map Prod.fst).eraseIdx i = (pts.erase pts[i]).map Prod.fst := by
  rw [hpts.of_map.erase_getElem i hi, List.eraseIdx_map]

/-- A Lagrange sum of rows is one of each lane. -/
theorem lagrangeValue_eq_map_lane {pts : List (Byte × List Byte)} (hpts : (pts.map Prod.fst).Nodup) (q : Byte)
    (len : Nat) : lagrangeValue pts q len = (List.range len).map (fun k => lagrangeLane (lane k pts) q) := by
  refine List.map_congr_left fun k _ => ?_
  have others {p : Byte × List Byte} {i : Nat} (hp : (p, i) ∈ pts.zipIdx) :
      (pts.map Prod.fst).eraseIdx i = ((lane k pts).erase (p.1, p.2.getD k 0)).map Prod.fst := by
    rw [List.mk_mem_zipIdx_iff_getElem?] at hp
    obtain ⟨hi, rfl⟩ := List.getElem?_eq_some_iff.mp hp
    rw [← map_fst_lane k, eraseIdx_map_fst (by rwa [map_fst_lane]) (by rwa [length_lane])]
    simp [lane]
  rw [lagrangeLane]
  conv_rhs => enter [3]; rw [lane, ← List.zipIdx_map_fst 0 pts]
  rw [List.foldl_map, List.foldl_map]
  refine List.foldl_ext _ _ _ fun acc (p, i) hp => ?_
  dsimp only
  rw [others hp]

/-! ## The interpolation polynomial -/

section

variable {F : Type} [Field F] {φ : Byte → F}

/-- A running exclusive or is a sum. -/
theorem FieldEncoding.map_foldl_xor (hφ : FieldEncoding φ) {α : Type} (f : α → Byte) (l : List α) (b : Byte) :
    φ (l.foldl (fun acc x => acc ^^^ f x) b) = φ b + (l.map (fun x => φ (f x))).sum := by
  induction l generalizing b with
  | nil => simp
  | cons x l ih => simp [ih, hφ.map_xor, add_assoc]

/-- The coefficient of a point is the product of the quotients of differences (R183). -/
theorem FieldEncoding.map_lagrangeCoeff (hφ : FieldEncoding φ) (q xi : Byte) (others : List Byte) :
    φ (lagrangeCoeff q xi others) = (others.map (fun xj => (φ q - φ xj) * (φ xi - φ xj)⁻¹)).prod := by
  have product (b : Byte) : φ (others.foldl
      (fun acc xj => shiftAddMul acc (shiftAddMul (q ^^^ xj) (gfInv (xi ^^^ xj)))) b) =
        φ b * (others.map (fun xj => (φ q - φ xj) * (φ xi - φ xj)⁻¹)).prod := by
    induction others generalizing b with
    | nil => simp
    | cons x others ih => simp [ih, hφ.map_mul, hφ.map_inv, hφ.map_xor_eq_sub, mul_assoc]
  rw [lagrangeCoeff, product, hφ.map_one, one_mul]

open Polynomial

/-- The polynomial of least degree through the points. -/
noncomputable def throughPoints (φ : Byte → F) (pts : List (Byte × Byte)) : F[X] :=
  Lagrange.interpolate pts.toFinset (fun p => φ p.1) (fun p => φ p.2)

variable {pts : List (Byte × Byte)}

theorem FieldEncoding.injOn_fst (hφ : FieldEncoding φ) (hpts : (pts.map Prod.fst).Nodup) :
    Set.InjOn (fun p : Byte × Byte => φ p.1) pts.toFinset := by
  intro a ha b hb h
  rw [List.coe_toFinset] at ha hb
  exact List.inj_on_of_nodup_map hpts ha hb (hφ.injective h)

theorem card_toFinset_of_nodup_fst (hpts : (pts.map Prod.fst).Nodup) : pts.toFinset.card = pts.length :=
  List.toFinset_card_of_nodup hpts.of_map

/-- The Lagrange sum is the value of the polynomial through the points. -/
theorem FieldEncoding.map_lagrangeLane (hφ : FieldEncoding φ) (hpts : (pts.map Prod.fst).Nodup) (q : Byte) :
    φ (lagrangeLane pts q) = (throughPoints φ pts).eval (φ q) := by
  have coeff (p : Byte × Byte) : φ (lagrangeCoeff q p.1 ((pts.erase p).map Prod.fst)) =
      (Lagrange.basis pts.toFinset (fun p => φ p.1) p).eval (φ q) := by
    have others : pts.toFinset.erase p = (pts.erase p).toFinset := by
      ext r
      simp [hpts.of_map.mem_erase_iff]
    rw [hφ.map_lagrangeCoeff, Lagrange.basis, others, eval_prod, List.prod_toFinset _ (hpts.of_map.erase p),
      List.map_map]
    simp [Lagrange.basisDivisor, Function.comp_def, mul_comm]
  rw [lagrangeLane, hφ.map_foldl_xor, throughPoints, Lagrange.interpolate_apply, eval_finsetSum,
    List.sum_toFinset _ hpts.of_map, hφ.map_zero, zero_add]
  simp [hφ.map_mul, coeff]

/-- As many values of the polynomial as there are points determine it. -/
theorem FieldEncoding.throughPoints_eq_of_eval (hφ : FieldEncoding φ) {pts' : List (Byte × Byte)}
    (hpts : (pts.map Prod.fst).Nodup) (hpts' : (pts'.map Prod.fst).Nodup) (hlen : pts'.length = pts.length)
    (h : ∀ p ∈ pts', (throughPoints φ pts).eval (φ p.1) = φ p.2) :
    throughPoints φ pts = throughPoints φ pts' := by
  refine Lagrange.eq_interpolate_of_eval_eq _ (hφ.injOn_fst hpts') ?_ fun p hp => h p (List.mem_toFinset.mp hp)
  rw [card_toFinset_of_nodup_fst hpts', hlen, ← card_toFinset_of_nodup_fst hpts]
  exact Lagrange.degree_interpolate_lt _ (hφ.injOn_fst hpts)

end

/-! ## The Lagrange sum of one lane -/

/-- The polynomial takes the given values at the given points. -/
theorem lagrangeLane_of_mem {pts : List (Byte × Byte)} (hpts : (pts.map Prod.fst).Nodup) {p : Byte × Byte}
    (hp : p ∈ pts) : lagrangeLane pts p.1 = p.2 := by
  obtain ⟨F, _, φ, hφ⟩ := exists_fieldEncoding
  refine hφ.injective ?_
  rw [hφ.map_lagrangeLane hpts]
  exact Lagrange.eval_interpolate_at_node _ (hφ.injOn_fst hpts) (List.mem_toFinset.mpr hp)

/-- As many points of the polynomial as it was given by give the same polynomial. -/
theorem lagrangeLane_of_resampled {pts pts' : List (Byte × Byte)} (hpts : (pts.map Prod.fst).Nodup)
    (hpts' : (pts'.map Prod.fst).Nodup) (hlen : pts'.length = pts.length)
    (h : ∀ p ∈ pts', lagrangeLane pts p.1 = p.2) (q : Byte) : lagrangeLane pts' q = lagrangeLane pts q := by
  obtain ⟨F, _, φ, hφ⟩ := exists_fieldEncoding
  have same : throughPoints φ pts = throughPoints φ pts' :=
    hφ.throughPoints_eq_of_eval hpts hpts' hlen fun p hp => by rw [← hφ.map_lagrangeLane hpts, h p hp]
  refine hφ.injective ?_
  rw [hφ.map_lagrangeLane hpts, hφ.map_lagrangeLane hpts', same]

/-! ## The Lagrange sum of rows -/

section

variable {pts pts' : List (Byte × List Byte)} {len : Nat}

@[simp] theorem length_lagrangeValue (pts : List (Byte × List Byte)) (q : Byte) (len : Nat) :
    (lagrangeValue pts q len).length = len := by simp [lagrangeValue]

theorem getD_lagrangeValue (hpts : (pts.map Prod.fst).Nodup) (q : Byte) {k : Nat} (hk : k < len) :
    (lagrangeValue pts q len).getD k 0 = lagrangeLane (lane k pts) q := by
  simp [lagrangeValue_eq_map_lane hpts, hk]

/-- The polynomial takes the given rows at the given points (R183). -/
theorem lagrangeValue_of_mem (hpts : (pts.map Prod.fst).Nodup) {p : Byte × List Byte} (hp : p ∈ pts)
    (hlen : p.2.length = len) : lagrangeValue pts p.1 len = p.2 := by
  refine List.ext_getElem ((length_lagrangeValue ..).trans hlen.symm) fun k _ hk => ?_
  have value := lagrangeLane_of_mem (pts := lane k pts) (by rwa [map_fst_lane]) (List.mem_map_of_mem hp)
  rw [List.getD_eq_getElem _ _ hk] at value
  simpa [lagrangeValue_eq_map_lane hpts] using value

/-- As many rows of the polynomial as it was given by give the same polynomial: what a split and a recovery rest on
(R188). -/
theorem lagrangeValue_of_resampled (hpts : (pts.map Prod.fst).Nodup) (hpts' : (pts'.map Prod.fst).Nodup)
    (hlen : pts'.length = pts.length) (h : ∀ p ∈ pts', lagrangeValue pts p.1 len = p.2) (q : Byte) :
    lagrangeValue pts' q len = lagrangeValue pts q len := by
  rw [lagrangeValue_eq_map_lane hpts, lagrangeValue_eq_map_lane hpts']
  refine List.map_congr_left fun k hk => ?_
  refine lagrangeLane_of_resampled (by rwa [map_fst_lane]) (by rwa [map_fst_lane]) (by simpa using hlen) ?_ q
  intro _ hlane
  obtain ⟨p, hp, rfl⟩ := List.mem_map.mp hlane
  rw [← h p hp]
  exact (getD_lagrangeValue hpts _ (List.mem_range.mp hk)).symm

end

end Sys2Proof.Machine
end

section
/-! PROOFS. `interpolate` (43_shamir.md R181): lane by lane for every configuration (R184), and with the default tables
the value of the polynomial through the points (R183). -/

namespace Sys2Proof.Machine

open Sys2Proof.Safety

/-! ## Lane by lane -/

/-- One lane of `interpolate` (R181). -/
def interpolateLane (C : Config) (pts : List (Byte × Byte)) (q : Byte) : Byte :=
  match pts.find? (fun p => p.1 == q) with
  | some p => p.2
  | none => laneSum C (logWeights C (pts.map Prod.fst) q) (pts.map Prod.snd)

theorem find?_lane (k : Nat) (pts : List (Byte × List Byte)) (q : Byte) :
    (lane k pts).find? (fun p => p.1 == q) = (pts.find? (fun p => p.1 == q)).map (fun p => (p.1, p.2.getD k 0)) :=
  List.find?_map

/-- Each byte of the result is that of its lane (R184). -/
theorem interpolate_eq_map_lane (C : Config) {pts : List (Byte × List Byte)} (q : Byte) {len : Nat}
    (hlen : ∀ p ∈ pts, p.2.length = len) :
    interpolate C pts q len = (List.range len).map (fun k => interpolateLane C (lane k pts) q) := by
  cases hfind : pts.find? (fun p => p.1 == q) with
  | none => simp [interpolate, interpolateLane, hfind, lane, Function.comp_def]
  | some p =>
    have hp := hlen p (List.mem_of_find?_eq_some hfind)
    refine List.ext_getElem (by simp [length_interpolate C pts q len hlen]) fun k _ hk => ?_
    have hk : k < p.2.length := by simpa [hp] using hk
    simp [interpolate, interpolateLane, find?_lane, hfind, hk]

/-- Settles O38: lane `k` of the points is fixed by their x values and byte `k` of their rows. -/
theorem lanesAreIndependent : Obligations.LanesAreIndependent := by
  intro C pts pts' q len k hk hxs hlen hlen' hbytes
  have pairs (l : List (Byte × List Byte)) :
      lane k l = (l.map Prod.fst).zip ((l.map (fun pt => pt.2[k]?)).map (fun b => b.getD 0)) := by
    simp [lane, List.zip_map', List.getD_eq_getElem?_getD]
  have same : lane k pts = lane k pts' := by rw [pairs, pairs, hxs, hbytes]
  simp only [interpolate_eq_map_lane C q hlen, interpolate_eq_map_lane C q hlen', List.getElem?_map,
    List.getElem?_range hk, Option.map_some, same]

/-! ## With the default tables -/

/-- `interpolate` calls no port. -/
theorem interpolate_configWith (p : Ports) : interpolate (configWith p) = interpolate hardware := rfl

/-- A quotient by the difference of logarithms, `255` keeping it non-negative (R181). -/
theorem powThree_quotient (lw : Nat) {a b : Byte} (ha : a ≠ 0) (hb : b ≠ 0) :
    powThree ((lw + (hardware.log a).toNat + 255 - (hardware.log b).toNat) % 255) =
      shiftAddMul (powThree lw) (shiftAddMul a (gfInv b)) := by
  have hlog := (hardware.log b).isLt
  conv_rhs => rw [← powThree_log ha, ← powThree_log hb, gfInv_powThree, shiftAddMul_powThree, shiftAddMul_powThree]
  rw [← powThree_mod (lw + _)]
  congr 1
  omega

/-- The sum of logarithms stands for the Lagrange coefficient, when no difference is 0 (R181, R183). -/
theorem powThree_logWeight {q xi : Byte} {others : List Byte} (hq : q ∉ others) (hxi : xi ∉ others) :
    powThree (logWeight hardware q xi others) = lagrangeCoeff q xi others := by
  have difference {x xj : Byte} (hx : x ∉ others) (hxj : xj ∈ others) : x ^^^ xj ≠ 0 :=
    fun h0 => hx (BitVec.xor_eq_zero_iff.mp h0 ▸ hxj)
  refine List.foldl_rel (r := fun lw acc => powThree lw = acc) rfl fun xj hxj lw _ h => ?_
  rw [← h, powThree_quotient lw (difference hq hxj) (difference hxi hxj)]

/-- A term of a lane: zero bytes contribute nothing (R181). -/
theorem laneTerm_hardware (acc y : Byte) (lw : Nat) :
    (if y = 0 then acc else acc ^^^ expMod hardware ((hardware.log y).toNat + lw)) =
      acc ^^^ shiftAddMul y (powThree lw) := by
  split
  next hy => rw [hy, shiftAddMul_zero_left]; exact BitVec.xor_zero.symm
  next hy => rw [expMod_hardware, ← shiftAddMul_powThree, powThree_log hy]

/-- Away from the points, the sum by logarithms is the Lagrange sum. -/
theorem laneSum_hardware {pts : List (Byte × Byte)} (hpts : (pts.map Prod.fst).Nodup) {q : Byte}
    (hq : q ∉ pts.map Prod.fst) :
    laneSum hardware (logWeights hardware (pts.map Prod.fst) q) (pts.map Prod.snd) = lagrangeLane pts q := by
  have weights : logWeights hardware (pts.map Prod.fst) q =
      pts.map (fun p => logWeight hardware q p.1 ((pts.erase p).map Prod.fst)) := by
    refine List.ext_getElem (by simp [logWeights]) fun i hi _ => ?_
    have hi : i < pts.length := by simpa [logWeights] using hi
    simp [logWeights, eraseIdx_map_fst hpts hi, hi]
  have weight {p : Byte × Byte} (hp : p ∈ pts) : powThree (logWeight hardware q p.1 ((pts.erase p).map Prod.fst)) =
      lagrangeCoeff q p.1 ((pts.erase p).map Prod.fst) := by
    refine powThree_logWeight (fun h => hq ((List.erase_sublist.map _).subset h)) fun h => ?_
    obtain ⟨r, hr, hfst⟩ := List.mem_map.mp h
    obtain ⟨hne, hr⟩ := hpts.of_map.mem_erase_iff.mp hr
    exact hne (List.inj_on_of_nodup_map hpts hr hp hfst)
  rw [laneSum, weights, List.zip_map', List.foldl_map, lagrangeLane]
  exact List.foldl_ext _ _ _ fun acc p hp => by rw [laneTerm_hardware, weight hp]

/-- One lane: the shortcut gives what the polynomial takes at a given point, the sum its value elsewhere (R183). -/
theorem interpolateLane_hardware {pts : List (Byte × Byte)} (hpts : (pts.map Prod.fst).Nodup) (q : Byte) :
    interpolateLane hardware pts q = lagrangeLane pts q := by
  cases hfind : pts.find? (fun p => p.1 == q) with
  | some p =>
    obtain rfl : p.1 = q := by simpa using List.find?_some hfind
    simp only [interpolateLane, hfind, lagrangeLane_of_mem hpts (List.mem_of_find?_eq_some hfind)]
  | none =>
    have hq : q ∉ pts.map Prod.fst := by
      rw [List.find?_eq_none] at hfind
      intro hmem
      obtain ⟨p, hp, rfl⟩ := List.mem_map.mp hmem
      exact hfind p hp (beq_self_eq_true _)
    simp only [interpolateLane, hfind, laneSum_hardware hpts hq]

/-- Settles O36: both sides are taken lane by lane, and a lane is `interpolateLane_hardware`. -/
theorem interpolationIsLagrange : Obligations.InterpolationIsLagrange := by
  intro p pts q len hpts hlen
  rw [interpolate_configWith, interpolate_eq_map_lane _ _ hlen, lagrangeValue_eq_map_lane hpts]
  exact List.map_congr_left fun k _ => interpolateLane_hardware (by rwa [map_fst_lane]) q

end Sys2Proof.Machine
end

section
/-! PROOFS. Split and recover (43_shamir.md R185 to R188): the shares of a split are values of one polynomial, and
as many of them as the threshold says give it back, and with it the secret and its digest share. -/

namespace Sys2Proof.Machine

open Sys2Proof.Safety

variable {p : Ports} {drawn count t len : Nat} {secret : List Byte} {pts : List (Byte × List Byte)}

/-! ## Recovery by the polynomial -/

/-- Recovery from 2 points or more, with the two interpolations read as values of the polynomial (R187). -/
theorem shamirRecover_eq_ite (ht : t ≠ 1) (hpts : ((pts.take t).map Prod.fst).Nodup)
    (hlen : ∀ pt ∈ pts, pt.2.length = len) :
    shamirRecover (configWith p) t pts len =
      if (hmac (configWith p) ((lagrangeValue (pts.take t) 254 len).drop 4)
          (lagrangeValue (pts.take t) 255 len)).take 4 = (lagrangeValue (pts.take t) 254 len).take 4 then
        .ok (lagrangeValue (pts.take t) 255 len)
      else .error .digestMismatch := by
  have value (q : Byte) : interpolate (configWith p) (pts.take t) q len = lagrangeValue (pts.take t) q len :=
    interpolationIsLagrange p _ q len hpts fun pt hpt => hlen pt (List.mem_of_mem_take hpt)
  rw [shamirRecover, if_neg ht]
  simp only [value, ne_eq, ite_not]
  rfl

/-! ## The points a split starts from -/

theorem length_splitPoints (C : Config) (drawn : Nat) (secret : List Byte) (ht : 2 ≤ t) :
    (splitPoints C drawn t secret).length = t := by
  simp [splitPoints, randomShares]
  omega

section

variable {C : Config} (ht : t ≤ 16) (hsecret : 4 ≤ secret.length)
include ht hsecret

/-- The polynomial of a split takes the values of the points it starts from. -/
theorem lagrangeValue_splitPoints_of_mem {x : Byte} {y : List Byte} (h : (x, y) ∈ splitPoints C drawn t secret) :
    lagrangeValue (splitPoints C drawn t secret) x secret.length = y :=
  lagrangeValue_of_mem (p := (x, y)) (nodup_splitPoints C drawn secret ht) h
    (length_of_mem_splitPoints C drawn t secret hsecret _ h)

/-- The secret stands at 255 (R185). -/
theorem lagrangeValue_splitPoints_secret :
    lagrangeValue (splitPoints C drawn t secret) 255 secret.length = secret :=
  lagrangeValue_splitPoints_of_mem ht hsecret (by simp [splitPoints, secretIndex])

/-- The digest share stands at 254 (R185, R186). -/
theorem lagrangeValue_splitPoints_digest :
    lagrangeValue (splitPoints C drawn t secret) 254 secret.length =
      digestShare C (rng C (drawn + (t - 2) * secret.length) (secret.length - 4)) secret :=
  lagrangeValue_splitPoints_of_mem ht hsecret (by simp [splitPoints, digestIndex])

/-- The random shares stand at 0 to `t-3`, in the order drawn (R185). -/
theorem lagrangeValue_splitPoints_random {x : Nat} (hx : x < t - 2) :
    lagrangeValue (splitPoints C drawn t secret) (BitVec.ofNat 8 x) secret.length =
      rng C (drawn + x * secret.length) secret.length := by
  refine lagrangeValue_splitPoints_of_mem ht hsecret (List.mem_append_left _ ?_)
  rw [randomShares, List.zip_map']
  exact List.mem_map_of_mem (List.mem_range.mpr hx)

end

/-! ## The shares of a split -/

/-- The shares with the given numbers, as points. -/
def sharePoints (shares : List (List Byte)) (chosen : List Nat) : List (Byte × List Byte) :=
  chosen.map (fun x => (BitVec.ofNat 8 x, shares.getD x []))

theorem nodup_sharePoints (shares : List (List Byte)) {chosen : List Nat} (hnodup : chosen.Nodup)
    (hsmall : ∀ x ∈ chosen, x < 256) : ((sharePoints shares chosen).map Prod.fst).Nodup := by
  rw [sharePoints, List.map_map]
  exact hnodup.map_on fun x hx y hy => ofNat8_inj_of_lt (hsmall x hx) (hsmall y hy)

theorem sharePoints_range_eq_zip {shares : List (List Byte)} (h : t ≤ shares.length) :
    sharePoints shares (List.range t) = ((List.range t).map (BitVec.ofNat 8)).zip shares := by
  refine List.ext_getElem (by simp [sharePoints, h]) fun i hi _ => ?_
  have hi : i < shares.length := by
    simp only [sharePoints, List.length_map, List.length_range] at hi
    omega
  simp [sharePoints, hi]

theorem length_of_mem_sharePoints {C : Config} (hsecret : 4 ≤ secret.length) {chosen : List Nat}
    (hchosen : ∀ x ∈ chosen, x < count) :
    ∀ pt ∈ sharePoints (shamirSplit C drawn count t secret) chosen, pt.2.length = secret.length := by
  intro pt hpt
  obtain ⟨x, hx, rfl⟩ := List.mem_map.mp hpt
  have hx : x < (shamirSplit C drawn count t secret).length := (length_shamirSplit ..).symm ▸ hchosen x hx
  refine length_of_mem_shamirSplit C drawn count t secret hsecret _ ?_
  rw [List.getD_eq_getElem _ _ hx]
  exact List.getElem_mem hx

/-- Threshold 1 copies the secret (R185). -/
theorem shamirSplit_one (C : Config) (drawn count : Nat) (secret : List Byte) :
    shamirSplit C drawn count 1 secret = List.replicate count secret := rfl

section

variable (hmin : 2 ≤ t) (hmax : t ≤ 16) (hsecret : 4 ≤ secret.length)
include hmin hmax hsecret

/-- From threshold 2 on, share `x` is the value at `x` of the split's polynomial (R185). -/
theorem getElem?_shamirSplit {x : Nat} (hx : x < count) :
    (shamirSplit (configWith p) drawn count t secret)[x]? =
      some (lagrangeValue (splitPoints (configWith p) drawn t secret) (BitVec.ofNat 8 x) secret.length) := by
  rw [← interpolationIsLagrange p _ _ _ (nodup_splitPoints _ drawn secret hmax)
    (length_of_mem_splitPoints _ drawn t secret hsecret), shamirSplit, if_neg (by omega)]
  simp [hx]

/-- Any `t` different shares determine the split's polynomial (R188). -/
theorem lagrangeValue_sharePoints (hcount : count ≤ 16) {chosen : List Nat} (hnodup : chosen.Nodup)
    (hchosen : ∀ x ∈ chosen, x < count) (hlen : chosen.length = t) (q : Byte) :
    lagrangeValue (sharePoints (shamirSplit (configWith p) drawn count t secret) chosen) q secret.length =
      lagrangeValue (splitPoints (configWith p) drawn t secret) q secret.length := by
  refine lagrangeValue_of_resampled (nodup_splitPoints _ drawn secret hmax)
    (nodup_sharePoints _ hnodup fun x hx => (hchosen x hx).trans_le (hcount.trans (by decide))) ?_ ?_ q
  · rw [length_splitPoints _ _ _ hmin, sharePoints, List.length_map, hlen]
  · intro pt hpt
    obtain ⟨x, hx, rfl⟩ := List.mem_map.mp hpt
    rw [List.getD_eq_getElem?_getD, getElem?_shamirSplit hmin hmax hsecret (hchosen x hx), Option.getD_some]

end

/-- The polynomial through one point is constant. -/
theorem lagrangeValue_singleton (x q : Byte) (y : List Byte) : lagrangeValue [(x, y)] q y.length = y := by
  have constant : lagrangeValue [(x, y)] q y.length = lagrangeValue [(q, y)] q y.length := by
    simp [lagrangeValue, lagrangeCoeff]
  rw [constant]
  exact lagrangeValue_of_mem (pts := [(q, y)]) (p := (q, y)) (List.nodup_singleton q) List.mem_cons_self rfl

/-! ## The statements -/

/-- Settles O40: threshold 1 by the constant polynomial; else the shares at 0 to `t-1` determine the split's polynomial,
which takes the values of the points it starts from. -/
theorem sharesLieOnThePolynomial : Obligations.SharesLieOnThePolynomial := by
  intro p drawn count t secret hpos htc hcount hsecret _ C shares rd pts
  have hlen : shares.length = count := length_shamirSplit ..
  have hpts : pts = sharePoints shares (List.range t) := (sharePoints_range_eq_zip (hlen.symm ▸ htc)).symm
  rcases hpos.eq_or_lt with rfl | hmin
  · have copies : shares = List.replicate count secret := shamirSplit_one ..
    have single : pts = [(0, secret)] := by
      rw [hpts, copies]
      simp [sharePoints, show 0 < count by omega]
    refine ⟨hlen, fun x hx => ?_, fun _ => copies, fun h => absurd h (by omega)⟩
    rw [single, lagrangeValue_singleton, copies, List.getElem?_replicate_of_lt hx]
  · have polynomial (q : Byte) : lagrangeValue pts q secret.length =
        lagrangeValue (splitPoints C drawn t secret) q secret.length := by
      rw [hpts]
      exact lagrangeValue_sharePoints hmin (by omega) (by omega) hcount List.nodup_range
        (fun x hx => (List.mem_range.mp hx).trans_le htc) List.length_range q
    have share {x : Nat} (hx : x < count) :
        shares[x]? = some (lagrangeValue (splitPoints C drawn t secret) (BitVec.ofNat 8 x) secret.length) :=
      getElem?_shamirSplit hmin (by omega) (by omega) hx
    refine ⟨hlen, fun x hx => by rw [polynomial, share hx], fun h => by omega, fun _ => ⟨fun x hx => ?_, ?_, ?_⟩⟩
    · rw [share (by omega), lagrangeValue_splitPoints_random (by omega) (by omega) hx]
    · rw [polynomial, lagrangeValue_splitPoints_secret (by omega) (by omega)]
    · rw [polynomial, lagrangeValue_splitPoints_digest (by omega) (by omega)]
      rfl

/-- Settles O41: the first `t` of the chosen shares determine the split's polynomial, which has the secret at 255 and
the digest share of the secret at 254. -/
theorem anyThresholdSharesRecover : Obligations.AnyThresholdSharesRecover := by
  intro p drawn count t secret chosen hpos htc hcount hsecret _ hnodup hchosen hlen
  show shamirRecover _ t (sharePoints _ chosen) _ = _
  rcases hpos.eq_or_lt with rfl | hmin
  · obtain ⟨x, rest, rfl⟩ := List.exists_cons_of_length_pos hlen
    have hx : x < count := hchosen x List.mem_cons_self
    simp [shamirRecover_one, sharePoints, shamirSplit_one, hx]
  · have used : (sharePoints (shamirSplit (configWith p) drawn count t secret) chosen).take t =
        sharePoints (shamirSplit (configWith p) drawn count t secret) (chosen.take t) := List.map_take.symm
    have hsub : ∀ x ∈ chosen.take t, x < count := fun x hx => hchosen x (List.mem_of_mem_take hx)
    have hnodup : (chosen.take t).Nodup := hnodup.sublist (List.take_sublist _ _)
    have polynomial (q : Byte) := lagrangeValue_sharePoints (p := p) (drawn := drawn) hmin (by omega)
      (by omega : 4 ≤ secret.length) hcount hnodup hsub (List.length_take_of_le hlen) q
    rw [shamirRecover_eq_ite (by omega) (used ▸ nodup_sharePoints _ hnodup fun x hx => (hsub x hx).trans (by omega))
      (length_of_mem_sharePoints (by omega) hchosen), used, polynomial, polynomial,
      lagrangeValue_splitPoints_secret (by omega) (by omega), lagrangeValue_splitPoints_digest (by omega) (by omega)]
    simp [digestShare]

end Sys2Proof.Machine
end

section
/-! PROOFS. `INTERP`, `SPLIT` and `SRECOVER` (43_shamir.md R190 to R192): the points in the buffers, the checks that
fail, and what the commands answer on legal operands. -/

namespace Sys2Proof.Machine

open Sys2Proof.Safety

variable {s t : State}

/-! ## The points in the buffers -/

theorem map_fst_points (s : State) (n : Nat) : (s.points n).map Prod.fst = s.xs.toList.take n := by
  rw [State.points, List.map_take, List.map_fst_zip (by simp)]

theorem length_points {n : Nat} (h : n ≤ 16) : (s.points n).length = n := by simp [State.points, h]

theorem take_points {k n : Nat} (h : k ≤ n) : (s.points n).take k = s.points k := by
  rw [State.points, List.take_take, Nat.min_eq_left h]
  rfl

theorem length_of_mem_points {n : Nat} (hlen : s.len.toNat ≤ 32) :
    ∀ pt ∈ s.points n, pt.2.length = s.len.toNat := by
  intro pt hpt
  obtain ⟨row, -, hrow⟩ := List.mem_map.mp (List.of_mem_zip (List.mem_of_mem_take hpt)).2
  simp [← hrow, hlen]

/-- The x values in use are pairwise different (R182), cell by cell. -/
theorem nodup_points_iff {n : Nat} : ((s.points n).map Prod.fst).Nodup ↔
    ∀ i j : Fin 16, i < j → j.val < n → s.xs[i] ≠ s.xs[j] := by
  rw [map_fst_points, List.Nodup, List.pairwise_iff_getElem]
  constructor
  · intro h i j hij hj
    have hi : i.val < (s.xs.toList.take n).length := by simpa using (show i.val < n by omega)
    have hj : j.val < (s.xs.toList.take n).length := by simpa using hj
    simpa using h i.val j.val hi hj hij
  · intro h i j hi hj hij
    simp only [List.length_take, Vector.length_toList, Nat.lt_min] at hi hj
    simpa using h ⟨i, hi.2⟩ ⟨j, hj.2⟩ hij hj.1

/-- Shares as long as `LEN` put into the rows are the points read from them (R191). -/
theorem points_putPoints {shares : List (List Byte)} (drawn : Nat) (hcount : shares.length ≤ 16)
    (hlen : ∀ y ∈ shares, y.length = s.len.toNat) (hmax : s.len.toNat ≤ 32) :
    (s.putPoints shares drawn).points shares.length = sharePoints shares (List.range shares.length) := by
  refine List.ext_getElem (by simp [length_points hcount, sharePoints]) fun x hx _ => ?_
  have hx : x < shares.length := by rwa [length_points hcount] at hx
  have row : (s.putPoints shares drawn).ys[x].toList.take s.len.toNat = shares[x] := by
    have hy := hlen _ (List.getElem_mem hx)
    rw [State.putPoints_ys, getElem_overwriteRows, List.getElem?_eq_getElem hx, Option.map_some, Option.getD_some,
      ← hy]
    exact take_toList_overwrite _ _ (hy ▸ hmax)
  have node : (s.putPoints shares drawn).xs[x] = BitVec.ofNat 8 x := by
    rw [State.putPoints_xs, getElem_overwrite_of_lt _ _ _ (by omega) (by simpa using hx)]
    simp
  simpa [State.points, sharePoints, hx] using ⟨node, row⟩

/-- The bytes put into `VAL` are the value read from it, when `LEN` counts them. -/
theorem value_putVal {b : List Byte} (h : b.length = s.len.toNat) (hmax : s.len.toNat ≤ 32) :
    (s.putVal b).value = b := by
  rw [State.value, State.putVal_val, State.putVal_len, ← h]
  exact take_toList_overwrite _ _ (h ▸ hmax)

/-! ## The checks that fail -/

theorem not_thresholdOk_iff (k c : Nat) : (!thresholdOk k c) = true ↔ ¬ (1 ≤ k ∧ k ≤ c ∧ c ≤ 16) := by
  rw [Bool.not_eq_true', ← Bool.not_eq_true, thresholdOk_iff]

theorem not_distinct_iff (xs : List Byte) : (!distinct xs) = true ↔ ¬ xs.Nodup := by
  rw [Bool.not_eq_true', ← Bool.not_eq_true, distinct_iff]

/-- The three checks of `INTERP` have one error (R190). -/
theorem interpBody_of_operands (C : Config) {q n : Byte} (h : ¬ ((1 ≤ n.toNat ∧ n.toNat ≤ 16) ∧
    (1 ≤ s.len.toNat ∧ s.len.toNat ≤ 32) ∧ ((s.points n.toNat).map Prod.fst).Nodup)) :
    interpBody C q n s = .error .invalidOperand := by
  simp only [interpBody, not_inRange_iff, not_distinct_iff]
  split_ifs with hn hlen hxs
  case pos => exact absurd ⟨hn, hlen, hxs⟩ h
  all_goals rfl

theorem splitBody_of_threshold (C : Config) {c k : Byte} (h : ¬ (1 ≤ k.toNat ∧ k.toNat ≤ c.toNat ∧ c.toNat ≤ 16)) :
    splitBody C c k s = .error .invalidOperand := if_pos ((not_thresholdOk_iff ..).mpr h)

theorem splitBody_of_len (C : Config) {c k : Byte} (hk : 1 ≤ k.toNat ∧ k.toNat ≤ c.toNat ∧ c.toNat ≤ 16)
    (h : ¬ (16 ≤ s.len.toNat ∧ s.len.toNat ≤ 32)) : splitBody C c k s = .error .invalidSecretLength := by
  rw [splitBody, if_neg fun hout => (not_thresholdOk_iff ..).mp hout hk, if_pos ((not_inRange_iff ..).mpr h)]

theorem srecoverBody_of_threshold (C : Config) {k : Byte} (h : ¬ (1 ≤ k.toNat ∧ k.toNat ≤ 16)) :
    srecoverBody C k s = .error .invalidOperand := if_pos ((not_inRange_iff ..).mpr h)

theorem srecoverBody_of_len (C : Config) {k : Byte} (hk : 1 ≤ k.toNat ∧ k.toNat ≤ 16)
    (h : ¬ (16 ≤ s.len.toNat ∧ s.len.toNat ≤ 32)) : srecoverBody C k s = .error .invalidSecretLength := by
  rw [srecoverBody, if_neg fun hout => (not_inRange_iff ..).mp hout hk, if_pos ((not_inRange_iff ..).mpr h)]

theorem srecoverBody_of_equal (C : Config) {k : Byte} (hk : 1 ≤ k.toNat ∧ k.toNat ≤ 16)
    (hlen : 16 ≤ s.len.toNat ∧ s.len.toNat ≤ 32) (htwo : 2 ≤ k.toNat)
    (h : ¬ ((s.points k.toNat).map Prod.fst).Nodup) : srecoverBody C k s = .error .invalidOperand := by
  rw [srecoverBody, if_neg fun hout => (not_inRange_iff ..).mp hout hk,
    if_neg fun hout => (not_inRange_iff ..).mp hout hlen,
    if_pos ((Bool.and_eq_true ..).mpr ⟨decide_eq_true htwo, (not_distinct_iff _).mpr h⟩)]

/-- Past its checks `SRECOVER` ends as the recovery does (R192). -/
theorem srecoverBody_eq_map (C : Config) {k : Byte} (hk : 1 ≤ k.toNat ∧ k.toNat ≤ 16)
    (hlen : 16 ≤ s.len.toNat ∧ s.len.toNat ≤ 32) (h : ((s.points k.toNat).map Prod.fst).Nodup) :
    srecoverBody C k s = (shamirRecover C k.toNat (s.points k.toNat) s.len.toNat).map s.putVal := by
  rw [srecoverBody, if_neg fun hout => (not_inRange_iff ..).mp hout hk,
    if_neg fun hout => (not_inRange_iff ..).mp hout hlen,
    if_neg fun hout => (not_distinct_iff _).mp ((Bool.and_eq_true ..).mp hout).2 h]

/-! ## The commands on legal operands -/

/-- `SPLIT` leaves the shares as the points in its first rows (R191). -/
theorem exec_split {c k : Byte} (hk : 1 ≤ k.toNat ∧ k.toNat ≤ c.toNat ∧ c.toNat ≤ 16)
    (hlen : 16 ≤ s.len.toNat ∧ s.len.toNat ≤ 32) :
    ∃ t, exec (.split c k) s = .next t ∧ t.status = statusOk ∧
      t.points c.toNat =
        sharePoints (shamirSplit hardware s.rngDrawn c.toNat k.toNat s.value) (List.range c.toNat) ∧
      SameBut (mayWrite (.split c k) s) s t ∧ t.rngDrawn = s.rngDrawn + splitDraws k.toNat s.len.toNat ∧
      t.len = s.len := by
  have body : commandBody hardware (.split c k) s = .ok _ := splitBody_eq_ok.mpr ⟨hk, hlen, rfl⟩
  obtain ⟨he, frame⟩ := exec_of_ok body
  have count := length_shamirSplit hardware s.rngDrawn c.toNat k.toNat s.value
  have value := length_value hlen.2
  have points := points_putPoints (s := s) (s.rngDrawn + splitDraws k.toNat s.len.toNat) (count ▸ hk.2.2)
    (fun y hy => (length_of_mem_shamirSplit hardware _ _ _ _ (by omega) y hy).trans value) hlen.2
  rw [count] at points
  exact ⟨_, he, rfl, points, frame, rfl, rfl⟩

/-- `SRECOVER` leaves in `VAL` what the recovery from its points gives (R192). -/
theorem exec_srecover {k : Byte} {b : List Byte} (hk : 1 ≤ k.toNat ∧ k.toNat ≤ 16)
    (hlen : 16 ≤ s.len.toNat ∧ s.len.toNat ≤ 32) (hxs : ((s.points k.toNat).map Prod.fst).Nodup)
    (hb : shamirRecover hardware k.toNat (s.points k.toNat) s.len.toNat = .ok b) (hblen : b.length = s.len.toNat) :
    ∃ t, exec (.srecover k) s = .next t ∧ t.status = statusOk ∧ t.value = b ∧
      SameBut (mayWrite (.srecover k) s) s t ∧ t.rngDrawn = s.rngDrawn := by
  have body : commandBody hardware (.srecover k) s = .ok (s.putVal b) :=
    srecoverBody_eq_ok.mpr ⟨hk, hlen, fun _ => hxs, b, hb, rfl⟩
  obtain ⟨he, frame⟩ := exec_of_ok body
  exact ⟨_, he, rfl, value_putVal hblen hlen.2, frame, rfl⟩

/-- One point gives its row (R187, R192). -/
theorem shamirRecover_points_one (C : Config) :
    shamirRecover C 1 (s.points 1) s.len.toNat = .ok (s.ys[0].toList.take s.len.toNat) := by
  have first : (s.points 1).head? = some (s.xs[0], s.ys[0].toList.take s.len.toNat) := by
    simp [State.points, List.head?_eq_getElem?]
  simp [shamirRecover_one, List.headD_eq_head?_getD, first]

/-! ## The statements -/

/-- Settles O37: `interpolate` is the value of the polynomial (O36), written to `VAL`; the checks have one error. -/
theorem interpEvaluatesThePolynomial : Obligations.InterpEvaluatesThePolynomial := by
  intro q n s ok
  have ok_iff : ok ↔ (1 ≤ n.toNat ∧ n.toNat ≤ 16) ∧ (1 ≤ s.len.toNat ∧ s.len.toNat ≤ 32) ∧
      ((s.points n.toNat).map Prod.fst).Nodup := by rw [nodup_points_iff]
  rw [ok_iff]
  refine ⟨fun ⟨hn, hlen, hxs⟩ => ?_, fun h => exec_of_error (i := .interp q n) (interpBody_of_operands hardware h)⟩
  have value : interpolate hardware (s.points n.toNat) q s.len.toNat = lagrangeValue (s.points n.toNat) q s.len.toNat :=
    interpolationIsLagrange freePorts _ _ _ hxs (length_of_mem_points hlen.2)
  have body : commandBody hardware (.interp q n) s = .ok (s.putVal (lagrangeValue (s.points n.toNat) q s.len.toNat)) :=
    interpBody_eq_ok.mpr ⟨hn, hlen, hxs, by rw [value]⟩
  obtain ⟨he, frame⟩ := exec_of_ok body
  exact ⟨_, he, rfl, value_putVal (length_lagrangeValue ..) hlen.2, frame, rfl⟩

/-- Settles O39: `exec_split` on legal operands, and the two checks in order. -/
theorem splitWritesTheShares : Obligations.SplitWritesTheShares := by
  intro c k s thr lenOk
  refine ⟨fun ⟨hk, hlen⟩ => ?_, fun hk => exec_of_error (i := .split c k) (splitBody_of_threshold hardware hk),
    fun ⟨hk, hlen⟩ => exec_of_error (i := .split c k) (splitBody_of_len hardware hk hlen)⟩
  obtain ⟨t, he, status, points, frame, drawn, -⟩ := exec_split hk hlen
  exact ⟨t, he, status, points, frame, drawn⟩

/-- Settles O42: the recovery reads the rows of `SPLIT`, whose first `k` shares recover the secret (O41), and no cell of
`VAL`. -/
theorem splitThenSrecoverRestores : Obligations.SplitThenSrecoverRestores := by
  intro c k s hpos hkc hcount hmin hmax
  have value := length_value hmax
  obtain ⟨t, he, status, points, -, -, len⟩ := exec_split ⟨hpos, hkc, hcount⟩ ⟨hmin, hmax⟩
  refine ⟨t, he, status, fun v => ?_⟩
  have small : ∀ x ∈ List.range k.toNat, x < c.toNat := fun x hx => (List.mem_range.mp hx).trans_le hkc
  have rows : ({ t with val := v } : State).points k.toNat =
      sharePoints (shamirSplit hardware s.rngDrawn c.toNat k.toNat s.value) (List.range k.toNat) := by
    show t.points k.toNat = _
    rw [← take_points hkc, points, sharePoints, ← List.map_take, List.take_range, Nat.min_eq_left hkc]
    rfl
  have lenv : ({ t with val := v } : State).len = s.len := len
  have recovered : shamirRecover hardware k.toNat (({ t with val := v } : State).points k.toNat)
      ({ t with val := v } : State).len.toNat = .ok s.value := by
    rw [rows, lenv, ← value]
    exact anyThresholdSharesRecover freePorts s.rngDrawn c.toNat k.toNat s.value (List.range k.toNat) hpos hkc hcount
      (by omega) (by omega) List.nodup_range small (by simp)
  have distinct : ((({ t with val := v } : State).points k.toNat).map Prod.fst).Nodup := by
    rw [rows]
    exact nodup_sharePoints _ List.nodup_range fun x hx => (small x hx).trans_le (by omega)
  exact exec_srecover ⟨hpos, by omega⟩ (lenv ▸ ⟨hmin, hmax⟩) distinct recovered (lenv ▸ value)

/-- Settles O43: one point gives its row, two or more the polynomial's value at 255 if the digest agrees. -/
theorem srecoverChecksTheDigest : Obligations.SrecoverChecksTheDigest := by
  intro k s hpos hmax hlo hhi hxs n sec dig
  have hk : 1 ≤ k.toNat ∧ k.toNat ≤ 16 := ⟨hpos, hmax⟩
  have hlen : 16 ≤ s.len.toNat ∧ s.len.toNat ≤ 32 := ⟨hlo, hhi⟩
  have hxs := nodup_points_iff.mpr hxs
  by_cases hone : k = 1
  · subst hone
    have row : sec = s.ys[0].toList.take n := if_pos rfl
    rw [if_pos (.inl rfl)]
    exact exec_srecover hk hlen hxs ((shamirRecover_points_one hardware).trans (by rw [row])) (by simp [row, n, hhi])
  · have value : sec = lagrangeValue (s.points k.toNat) 255 n := if_neg hone
    have recovery := shamirRecover_eq_ite (p := freePorts) (t := k.toNat) (pts := s.points k.toNat) (by bv_omega)
      (by rwa [take_points le_rfl]) (length_of_mem_points hhi)
    rw [take_points le_rfl, ← value] at recovery
    split
    next hdigest =>
      have hdigest := hdigest.resolve_left hone
      exact exec_srecover hk hlen hxs (recovery.trans (if_pos hdigest)) (by rw [value, length_lagrangeValue])
    next hdigest =>
      have recovery := recovery.trans (if_neg (not_or.mp hdigest).2)
      exact exec_of_error (i := .srecover k)
        ((srecoverBody_eq_map hardware hk hlen hxs).trans (congrArg (Except.map s.putVal) recovery))

/-- Settles O44: two equal x values need a threshold of 2 or more. -/
theorem srecoverOperandChecks : Obligations.SrecoverOperandChecks := by
  intro k s thr lenOk
  refine ⟨fun hk => exec_of_error (i := .srecover k) (srecoverBody_of_threshold hardware hk),
    fun ⟨hk, hlen⟩ => exec_of_error (i := .srecover k) (srecoverBody_of_len hardware hk hlen),
    fun ⟨hk, hlen⟩ ⟨i, j, hij, hj, heq⟩ => ?_⟩
  have equal : ¬ ((s.points k.toNat).map Prod.fst).Nodup := fun h => nodup_points_iff.mp h i j hij hj heq
  exact exec_of_error (i := .srecover k) (srecoverBody_of_equal hardware hk hlen (by omega) equal)

end Sys2Proof.Machine
end

section
/-! PROOFS. The Feistel network (44_feistel.md R213, R214, R217): for every order of the rounds, the network in the
opposite order undoes it, because each round does so once the halves are exchanged. -/

namespace Sys2Proof.Machine

section
variable (C : Config) (ident : BitVec 15) (ie : BitVec 5) (pp : List Byte)

/-! ## Rounds -/

/-- The same mask twice changes nothing (R12). -/
theorem xorBytes_xorBytes_cancel {a b : List Byte} (h : a.length ≤ b.length) : xorBytes (xorBytes a b) b = a := by
  refine List.ext_getElem (by simp [h]) fun k _ _ => ?_
  simp [xorBytes]

/-- A round on the exchanged halves of the same round's result gives the halves it started from, exchanged (R217). -/
theorem feistelRound_swap_feistelRound {lr : List Byte × List Byte} (h : lr.1.length = lr.2.length) (i : Byte) :
    feistelRound C ident ie pp (feistelRound C ident ie pp lr i).swap i = lr.swap :=
  Prod.ext rfl (xorBytes_xorBytes_cancel (by rw [length_roundF]; exact h.le))

/-- The rounds in the opposite order peel off one round after the other (R217). -/
theorem foldl_feistelRound_reverse (order : List Byte) {lr : List Byte × List Byte} (h : lr.1.length = lr.2.length) :
    order.reverse.foldl (feistelRound C ident ie pp) (order.foldl (feistelRound C ident ie pp) lr).swap = lr.swap := by
  induction order generalizing lr with
  | nil => rfl
  | cons i order ih =>
    have next : (feistelRound C ident ie pp lr i).1.length = (feistelRound C ident ie pp lr i).2.length := by
      simp [feistelRound, h]
    simp only [List.reverse_cons, List.foldl_append, List.foldl_cons, List.foldl_nil, ih next]
    exact feistelRound_swap_feistelRound C ident ie pp h i

/-! ## The network -/

/-- The network on two halves of one length: the rounds, then the halves exchanged (R213, R214). -/
theorem feistel_append (order : List Byte) {l r : List Byte} (h : l.length = r.length) :
    feistel C order (l ++ r) ident ie pp =
      (order.foldl (feistelRound C ident ie pp) (l, r)).2 ++ (order.foldl (feistelRound C ident ie pp) (l, r)).1 := by
  have half : (l ++ r).length / 2 = l.length := by
    rw [List.length_append]
    omega
  simp only [feistel, half, List.take_left, List.drop_left]

/-- A string of even length is two halves of one length (R213). -/
theorem exists_halves {sec : List Byte} (h : sec.length % 2 = 0) : ∃ l r, sec = l ++ r ∧ l.length = r.length :=
  ⟨_, _, (List.take_append_drop (sec.length / 2) sec).symm, by simp; omega⟩

/-- The network in the opposite order is the inverse, for every order of the rounds (R217). -/
theorem feistel_reverse_feistel (order : List Byte) {sec : List Byte} (h : sec.length % 2 = 0) :
    feistel C order.reverse (feistel C order sec ident ie pp) ident ie pp = sec := by
  obtain ⟨l, r, rfl, hlr⟩ := exists_halves h
  obtain ⟨hleft, hright⟩ := length_foldl_feistelRound C ident ie pp order (l, r) l.length rfl hlr.symm
  have back := foldl_feistelRound_reverse C ident ie pp order (lr := (l, r)) hlr
  rw [Prod.swap] at back
  rw [feistel_append C ident ie pp order hlr, feistel_append C ident ie pp _ (hright.trans hleft.symm), back]
  rfl

/-- How long the halves are does not depend on the passphrase (R213). -/
theorem length_foldl_feistelRound_passphrase (pp' order : List Byte) {lr lr' : List Byte × List Byte}
    (hleft : lr'.1.length = lr.1.length) (hright : lr'.2.length = lr.2.length) :
    (order.foldl (feistelRound C ident ie pp') lr').1.length = (order.foldl (feistelRound C ident ie pp) lr).1.length ∧
      (order.foldl (feistelRound C ident ie pp') lr').2.length =
        (order.foldl (feistelRound C ident ie pp) lr).2.length := by
  induction order generalizing lr lr' with
  | nil => exact ⟨hleft, hright⟩
  | cons i order ih => exact ih hright (by simp [feistelRound, hleft, hright])

/-- How long the result is does not depend on the passphrase, whatever the length of the input (R214). -/
theorem length_feistel_passphrase (order sec pp' : List Byte) :
    (feistel C order sec ident ie pp').length = (feistel C order sec ident ie pp).length := by
  obtain ⟨hleft, hright⟩ := length_foldl_feistelRound_passphrase C ident ie pp pp' order
    (lr := (sec.take (sec.length / 2), sec.drop (sec.length / 2))) rfl rfl
  simp only [feistel, List.length_append, hleft, hright]

end

/-! ## The statement -/

/-- Settles O47: the two functions are the network in two orders, each the reverse of the other. -/
theorem decryptInvertsEncrypt : Obligations.DecryptInvertsEncrypt := fun C _ ident ie pp heven =>
  ⟨feistel_reverse_feistel C ident ie pp [0, 1, 2, 3] heven, feistel_reverse_feistel C ident ie pp [3, 2, 1, 0] heven⟩

end Sys2Proof.Machine
end

section
/-! PROOFS. `FENC` and `FDEC` (44_feistel.md R210 to R216): the arguments of each call of the key derivation port as the
rules write them, the four rounds on the registers, and the operand checks. -/

namespace Sys2Proof.Machine

open Sys2Proof.Safety

variable {s : State}

/-! ## The rounds on the registers -/

/-- The two bytes of the identifier in the salt (R210). -/
theorem salt_eq (ident : BitVec 15) (r : List Byte) : salt ident r =
    cust ++ [BitVec.ofNat 8 (ident.toNat / 256), BitVec.ofNat 8 (ident.toNat % 256)] ++ r := by
  have high : (ident.extractLsb' 8 7).setWidth 8 = BitVec.ofNat 8 (ident.toNat / 256) := by
    apply BitVec.eq_of_toNat_eq
    simp [Nat.shiftRight_eq_div_pow]
    omega
  have low : ident.extractLsb' 0 8 = BitVec.ofNat 8 (ident.toNat % 256) := by
    apply BitVec.eq_of_toNat_eq
    simp
  rw [salt, high, low]

/-- The round function calls the port with the password, salt, iteration count and output length of the rules (R210 to
R212). -/
theorem roundF_eq_roundAnswer (C : Config) (s : State) (i : Byte) (r : List Byte) :
    roundF C s.id s.ie s.passphrase i r = roundAnswer C s r.length i r := by
  rw [roundF, salt_eq, Nat.shiftLeft_eq]
  rfl

/-- One round on the registers (R213). -/
theorem feistelRound_eq_roundAnswer (C : Config) (i : Byte) {l r : List Byte} {n : Nat} (hr : r.length = n) :
    feistelRound C s.id s.ie s.passphrase (l, r) i = (r, xorBytes l (roundAnswer C s n i r)) := by
  rw [feistelRound, roundF_eq_roundAnswer, hr]

theorem length_xorBytes_roundAnswer (C : Config) (i : Byte) {l : List Byte} {n : Nat} (hl : l.length = n)
    (r : List Byte) :
    (xorBytes l (roundAnswer C s n i r)).length = n := by
  simp [roundAnswer, hl]

/-- The network with four rounds is these rounds unrolled (R214). -/
theorem feistel_eq_fourRounds (C : Config) (hmax : s.len.toNat ≤ 32) (heven : s.len.toNat % 2 = 0)
    (i0 i1 i2 i3 : Byte) :
    feistel C [i0, i1, i2, i3] s.value s.id s.ie s.passphrase = fourRounds C s i0 i1 i2 i3 := by
  have hvalue := length_value hmax
  have hleft : (s.value.take (s.len.toNat / 2)).length = s.len.toNat / 2 := by
    rw [List.length_take, hvalue]
    omega
  have hright : (s.value.drop (s.len.toNat / 2)).length = s.len.toNat / 2 := by
    rw [List.length_drop, hvalue]
    omega
  simp only [feistel, hvalue, List.foldl_cons, List.foldl_nil]
  rw [feistelRound_eq_roundAnswer C i0 hright,
    feistelRound_eq_roundAnswer C i1 (length_xorBytes_roundAnswer C i0 hleft _),
    feistelRound_eq_roundAnswer C i2 (length_xorBytes_roundAnswer C i1 hright _),
    feistelRound_eq_roundAnswer C i3 (length_xorBytes_roundAnswer C i2 (length_xorBytes_roundAnswer C i0 hleft _) _)]
  rfl

/-! ## The commands -/

/-- Past its checks a cipher command leaves the cipher's result in `VAL` (R215, R216). -/
theorem exec_cipher {i : Instr} {order : List Byte}
    (hbody : commandBody hardware i s = cipherBody hardware (feistel hardware order) s)
    (hlen : 16 ≤ s.len.toNat ∧ s.len.toNat ≤ 32 ∧ s.len.toNat % 2 = 0) (hplen : s.plen.toNat ≤ 128) :
    ∃ t, exec i s = .next t ∧ t.status = statusOk ∧
      t.value = feistel hardware order s.value s.id s.ie s.passphrase ∧
      SameBut (mayWrite i s) s t ∧ t.rngDrawn = s.rngDrawn := by
  obtain ⟨he, frame⟩ := exec_of_ok (hbody.trans (cipherBody_eq_ok.mpr ⟨hlen, hplen, rfl⟩))
  obtain ⟨-, hmax, heven⟩ := hlen
  have hvalue := length_value hmax
  have length := length_feistel hardware order s.value s.id s.ie s.passphrase (hvalue ▸ heven)
  exact ⟨_, he, rfl, value_putVal (length.trans hvalue) hmax, frame, rfl⟩

theorem not_secretLengthOk_iff (n : Nat) : (!secretLengthOk n) = true ↔ ¬ (16 ≤ n ∧ n ≤ 32 ∧ n % 2 = 0) := by
  rw [Bool.not_eq_true', ← Bool.not_eq_true, secretLengthOk_iff]

section
variable (C : Config) (f : List Byte → BitVec 15 → BitVec 5 → List Byte → List Byte)

theorem cipherBody_of_len (h : ¬ (16 ≤ s.len.toNat ∧ s.len.toNat ≤ 32 ∧ s.len.toNat % 2 = 0)) :
    cipherBody C f s = .error .invalidSecretLength := if_pos ((not_secretLengthOk_iff _).mpr h)

theorem cipherBody_of_plen (hlen : 16 ≤ s.len.toNat ∧ s.len.toNat ≤ 32 ∧ s.len.toNat % 2 = 0)
    (h : C.passMax.val < s.plen.toNat) : cipherBody C f s = .error .invalidOperand := by
  rw [cipherBody, if_neg fun hout => (not_secretLengthOk_iff _).mp hout hlen, if_pos h]

end

/-! ## The statements -/

/-- Settles O45: both commands run the network, whose rounds are the rules'. -/
theorem cipherRunsFourRounds : Obligations.CipherRunsFourRounds := by
  intro s hmin hmax heven hplen
  have enc := feistel_eq_fourRounds hardware hmax heven 0 1 2 3
  have dec := feistel_eq_fourRounds hardware hmax heven 3 2 1 0
  exact ⟨enc ▸ exec_cipher (i := .fenc) rfl ⟨hmin, hmax, heven⟩ hplen,
    dec ▸ exec_cipher (i := .fdec) rfl ⟨hmin, hmax, heven⟩ hplen⟩

/-- Settles O46: the checks stand in the body that both commands share, before the cipher. -/
theorem cipherOperandChecks : Obligations.CipherOperandChecks := by
  intro s lenOk
  exact ⟨fun hlen => ⟨exec_of_error (i := .fenc) (cipherBody_of_len hardware _ hlen),
      exec_of_error (i := .fdec) (cipherBody_of_len hardware _ hlen)⟩,
    fun ⟨hlen, hplen⟩ => ⟨exec_of_error (i := .fenc) (cipherBody_of_plen hardware _ hlen hplen),
      exec_of_error (i := .fdec) (cipherBody_of_plen hardware _ hlen hplen)⟩⟩

end Sys2Proof.Machine
end

section
/-! PROOFS. A wrong passphrase is no error (44_feistel.md R218; 46_orchestrator.md R267): the passphrase enters a
recovery in the decryption at its end only. -/

namespace Sys2Proof.Machine

open Sys2Proof.Safety

theorem statusError_ne_statusOk (e : CmdError) : statusError e ≠ statusOk := by cases e <;> decide

/-- A command that reports success has computed its results (R300, R303). -/
theorem commandBody_of_exec_statusOk {i : Instr} {s t : State} (h : exec i s = .next t)
    (hstatus : t.status = statusOk) :
    ∃ u, commandBody hardware i s = .ok u ∧ t = u.succeed := by
  rw [exec_eq_finish] at h
  rcases finish_eq_next h with ok | ⟨e, -, rfl⟩
  · exact ok
  · exact absurd hstatus (statusError_ne_statusOk e)

/-- What is recovered with one passphrase is recovered with every other, to the same number of bytes (R218, R267). -/
theorem exists_recoverShares_passphrase {C : Config} {pp : List Byte} {h0 : Share} {hs : List Share} {b : List Byte}
    (h : recoverShares C pp h0 hs = .ok b) (pp' : List Byte) :
    ∃ b', recoverShares C pp' h0 hs = .ok b' ∧ b'.length = b.length := by
  obtain ⟨same, length, gs, used, hgroups, hused, hsecret⟩ := recoverShares_eq_ok.mp h
  obtain ⟨pts, ems, hpts, hems, rfl⟩ := recoverSecret_eq_ok.mp hsecret
  exact ⟨feistelDecrypt C ems h0.id h0.ie pp',
    recoverShares_eq_ok.mpr
      ⟨same, length, gs, used, hgroups, hused, recoverSecret_eq_ok.mpr ⟨pts, ems, hpts, hems, rfl⟩⟩,
    length_feistel_passphrase C h0.id h0.ie pp [3, 2, 1, 0] ems pp'⟩

/-- Settles O58: the rows decode and combine to the same encrypted secret, and every passphrase decrypts it. -/
theorem recoverAcceptsEveryPassphrase : Obligations.RecoverAcceptsEveryPassphrase := by
  intro s t pass plen hexec hstatus hplen
  obtain ⟨r, hbody, rfl⟩ := commandBody_of_exec_statusOk hexec hstatus
  obtain ⟨hnsh, -, hpos, h0, hs, b, hrows, hb, rfl⟩ := recoverBody_eq_ok.mp hbody
  obtain ⟨b', hb', length⟩ := exists_recoverShares_passphrase hb (pass.toList.take plen.toNat)
  have body : commandBody hardware .recover { s with pass := pass, plen := plen } = .ok _ :=
    recoverBody_eq_ok.mpr ⟨hnsh, hplen, hpos, h0, hs, b', hrows, hb', rfl⟩
  exact ⟨_, (exec_of_ok body).1, rfl, congrArg (BitVec.ofNat 6) length⟩

end Sys2Proof.Machine
end

section
/-! PROOFS. The share codec inverted (45_share_codec.md R237): a checksum that verifies is the one that is created, so the
words of a mnemonic that decodes, metadata, value and checksum, are those of its share; then `SHENC` (R238). -/

namespace Sys2Proof.Machine

open Sys2Proof.Safety

/-! ## A checksum that verifies (R163, R164) -/

/-- Any three words are the words of a checksum. -/
theorem checksumWords_append (x y z : Word) : checksumWords (x ++ y ++ z) = [x, y, z] := by
  have number : (x ++ y ++ z).toNat = (x.toNat * 2 ^ 10 + y.toNat) * 2 ^ 10 + z.toNat := by
    rw [toNat_append_eq, toNat_append_eq]
  have hx := x.isLt
  have hy := y.isLt
  have hz := z.isLt
  simp only [checksumWords, List.cons.injEq, and_true, ← BitVec.toNat_inj, BitVec.extractLsb'_toNat,
    Nat.shiftRight_eq_div_pow, number]
  omega

/-- A sequence that verifies ends in the checksum `rs_create` puts there. -/
theorem rsCreate_of_rsVerify {C : Config} {data last : List Word} (hlast : last.length = 3)
    (h : rsVerify C (data ++ last) = true) : rsCreate C (data ++ last) = data ++ last := by
  obtain ⟨x, y, z, rfl⟩ := List.length_eq_three.mp hlast
  have verified : customPolymod C (data ++ [0, 0, 0]) ^^^ (x ++ y ++ z) = 1 := by
    rw [← customPolymod_append_checksumWords, checksumWords_append]
    exact eq_of_beq h
  have checksum : customPolymod C (data ++ [0, 0, 0]) ^^^ 1 = x ++ y ++ z := by
    rw [← verified, ← BitVec.xor_assoc, BitVec.xor_self, BitVec.zero_xor]
  rw [rsCreate_append C hlast, checksum, checksumWords_append]

/-! ## The value and the metadata of words that decode -/

/-- The bytes of `c` words take `c` words (R140, R142). -/
theorem wordCount_decodedLength (c : Nat) : wordCount (decodedLength c) = c := by
  unfold wordCount decodedLength leadingBits
  split <;> omega

/-- Words that unpack are packed again from their bytes (R141, R142). -/
theorem wordsOfBytes_of_bytesOfWords {ws : List Word} {b : List Byte} (h : bytesOfWords ws = .ok b) :
    wordsOfBytes b = ws := by
  have count : wordCount b.length = ws.length := by rw [length_of_bytesOfWords h, wordCount_decodedLength]
  have integer : be b = wordsBe ws := by
    obtain ⟨padding, rfl⟩ := bytesOfWords_eq_ok.mp h
    rw [bits_sub_leadingBits, Nat.shiftRight_eq_div_pow] at padding
    exact be_bytesBe ((Nat.div_eq_zero_iff_lt (Nat.two_pow_pos _)).mp padding)
  calc wordsOfBytes b = toBitDigits 10 (be b) (wordCount b.length) := rfl
    _ = toBitDigits 10 (ofBitDigits ws) ws.length := by rw [count, integer, wordsBe_eq]
    _ = ws := toBitDigits_ofBitDigits ws

/-- Fields cut from words are legal (R231, R235). -/
theorem legalShare_fieldsOf (ws : List Word) {value : List Byte} (h : 1 ≤ value.length ∧ value.length ≤ 32) :
    legalShare (fieldsOf ws value) := by
  have w3 := (ws.getD 3 0).isLt
  rw [legalShare, toNat_fieldsOf_gt, toNat_fieldsOf_gc, toNat_fieldsOf_mt, gtField, gcField]
  exact ⟨by omega, by omega, by omega, h⟩

/-- The fields cut from four words are put together to the same four (R231, R235). -/
theorem metaWords_fieldsOf {ws : List Word} (hlen : 4 ≤ ws.length) (value : List Byte) :
    metaWords (fieldsOf ws value) = ws.take 4 := by
  obtain ⟨w0, w1, w2, w3, rest, rfl⟩ : ∃ w0 w1 w2 w3 rest, ws = w0 :: w1 :: w2 :: w3 :: rest := by
    match ws, hlen with
    | w0 :: w1 :: w2 :: w3 :: rest, _ => exact ⟨w0, w1, w2, w3, rest, rfl⟩
  have formulas := map_toNat_metaWords (legalShare_fieldsOf (w0 :: w1 :: w2 :: w3 :: rest) (value := [0]) (by decide))
  have h0 := w0.isLt
  have h1 := w1.isLt
  have h2 := w2.isLt
  have h3 := w3.isLt
  refine List.map_injective_iff.mpr (fun _ _ => BitVec.eq_of_toNat_eq) (formulas.trans ?_)
  simp only [metaWordsNat, toNat_fieldsOf_id, toNat_fieldsOf_ie, toNat_fieldsOf_gi, toNat_fieldsOf_gt,
    toNat_fieldsOf_gc, toNat_fieldsOf_mi, toNat_fieldsOf_mt, gtField, gcField, List.getD_cons_zero,
    List.getD_cons_succ, List.take_succ_cons, List.take_zero, List.map_cons, List.map_nil, List.cons.injEq, and_true]
  omega

/-- The words of a mnemonic before its checksum are its metadata words and its value words (R230). -/
theorem take_four_append_valueWords {ws : List Word} (hlen : 7 ≤ ws.length) :
    ws.take 4 ++ valueWords ws = ws.take (ws.length - 3) := by
  have front : ws.take 4 = (ws.take (ws.length - 3)).take 4 := by
    rw [List.take_take, Nat.min_eq_left (by omega)]
  rw [front]
  exact List.take_append_drop 4 _

/-- Words that decode are the mnemonic of their share (R237). -/
theorem shareEncode_of_shareDecode {C : Config} {ws : List Word} {h : Share} (hlen : 8 ≤ ws.length)
    (hdecode : shareDecode C ws = .ok h) : shareEncode C h = ws := by
  obtain ⟨verified, -, b, unpacked, rfl⟩ := shareDecode_eq_ok.mp hdecode
  have parts : ws.take (ws.length - 3) ++ ws.drop (ws.length - 3) = ws := List.take_append_drop _ _
  have last : (ws.drop (ws.length - 3)).length = 3 := by
    rw [List.length_drop]
    omega
  have data : metaWords (fieldsOf ws b) ++ wordsOfBytes b = ws.take (ws.length - 3) := by
    rw [metaWords_fieldsOf (by omega), wordsOfBytes_of_bytesOfWords unpacked, take_four_append_valueWords (by omega)]
  calc shareEncode C (fieldsOf ws b) = rsCreate C (ws.take (ws.length - 3) ++ [0, 0, 0]) := by rw [← data]; rfl
    _ = rsCreate C (ws.take (ws.length - 3) ++ ws.drop (ws.length - 3)) := by
      rw [rsCreate_append C rfl, rsCreate_append C last]
    _ = ws.take (ws.length - 3) ++ ws.drop (ws.length - 3) := rsCreate_of_rsVerify last (parts.symm ▸ verified)
    _ = ws := parts

/-! ## `SHENC` -/

section
variable (C : Config) {s : State}

theorem shencBody_of_group (h : ¬ (1 ≤ s.gt.toNat ∧ s.gt.toNat ≤ s.gc.toNat ∧ s.gc.toNat ≤ 16)) :
    shencBody C s = .error .invalidGroupThreshold := by
  rw [← thresholdOk_iff, Bool.not_eq_true, ← Bool.not_eq_true'] at h
  exact if_pos h

variable (hgrp : 1 ≤ s.gt.toNat ∧ s.gt.toNat ≤ s.gc.toNat ∧ s.gc.toNat ≤ 16)
include hgrp

theorem shencBody_of_member (h : ¬ (1 ≤ s.mt.toNat ∧ s.mt.toNat ≤ 16)) :
    shencBody C s = .error .invalidThreshold := by
  rw [shencBody, (thresholdOk_iff ..).mpr hgrp, if_neg (by decide), if_pos ((not_inRange_iff ..).mpr h)]

theorem shencBody_of_len (hmt : 1 ≤ s.mt.toNat ∧ s.mt.toNat ≤ 16) (h : ¬ (1 ≤ s.len.toNat ∧ s.len.toNat ≤ 32)) :
    shencBody C s = .error .invalidOperand := by
  rw [shencBody, (thresholdOk_iff ..).mpr hgrp, if_neg (by decide), (inRange_iff ..).mpr hmt, if_neg (by decide),
    if_pos ((not_inRange_iff ..).mpr h)]

/-- Registers `SHENC` accepts hold a legal share (R233, R238). -/
theorem legalShare_shareRecord (hmt : 1 ≤ s.mt.toNat ∧ s.mt.toNat ≤ 16) (hlen : 1 ≤ s.len.toNat ∧ s.len.toNat ≤ 32) :
    legalShare s.shareRecord := by
  obtain ⟨one, le, sixteen⟩ := hgrp
  have length : s.shareRecord.value.length = s.len.toNat := length_value hlen.2
  rw [legalShare, length]
  exact ⟨⟨one, le.trans sixteen⟩, ⟨one.trans le, sixteen⟩, hmt, hlen⟩

end

/-! ## The statements -/

/-- Settles O48: the formulas are those of the one integer of the 40 bits. -/
theorem metadataWordsByFormula : Obligations.MetadataWordsByFormula := fun _ hlegal => map_toNat_metaWords hlegal

/-- Settles O49: what a mnemonic decodes to, and the share of words that decode taken back to its words. -/
theorem shareCodecRoundTrip : Obligations.ShareCodecRoundTrip :=
  ⟨fun C _ _ _ hlegal hvalue => shareDecode_shareEncode C hlegal hvalue,
    fun _ _ _ hlen hdecode => shareEncode_of_shareDecode hlen hdecode⟩

/-- Settles O50: the words put into `W` are the mnemonic of the record, whose parts the codec's lemmas describe. -/
theorem shencEncodesTheRecord : Obligations.ShencEncodesTheRecord := by
  intro s grp mem lenOk
  refine ⟨fun ⟨hgrp, hmem, hlen⟩ => ?_, fun hgrp => ?_, fun ⟨hgrp, hmem⟩ => ?_, fun ⟨hgrp, hmem, hlen⟩ => ?_⟩
  · have legal := legalShare_shareRecord hgrp hmem hlen
    obtain ⟨he, frame⟩ := exec_of_ok (i := .shenc) (shencBody_eq_ok.mpr ⟨hgrp, hmem, hlen, rfl⟩)
    have count : (shareEncode hardware s.shareRecord).length = 7 + wordCount s.len.toNat := by
      rw [length_shareEncode, ← length_value hlen.2]
      rfl
    have room := wordCount_le hlen.2
    have words : (s.putWords (shareEncode hardware s.shareRecord)).succeed.words = shareEncode hardware s.shareRecord :=
      words_putWords (by omega)
    have wlen : (s.putWords (shareEncode hardware s.shareRecord)).succeed.wlen.toNat = 7 + wordCount s.len.toNat := by
      rw [State.succeed_wlen, State.putWords_wlen, count, BitVec.toNat_ofNat, Nat.mod_eq_of_lt (by omega)]
    refine ⟨_, he, rfl, wlen, by rw [words, count, wlen], ?_, ?_, ?_, frame, rfl⟩
    · rw [words, shareEncode_eq_append, List.take_left' (length_metaWords _), map_toNat_metaWords legal]
    · rw [words, valueWords_shareEncode, wordsBe_wordsOfBytes]
      rfl
    · rw [words]
      exact rsVerify_rsCreate hardware _
  · exact exec_of_error (i := .shenc) (shencBody_of_group hardware hgrp)
  · exact exec_of_error (i := .shenc) (shencBody_of_member hardware hgrp hmem)
  · exact exec_of_error (i := .shenc) (shencBody_of_len hardware hgrp hmem hlen)

end Sys2Proof.Machine
end

section
/-! PROOFS. The checks of `RECOVER` before it combines anything (46_orchestrator.md R261, R268, R270): the operands, then
the rows in order, the first that does not decode with its error. -/

namespace Sys2Proof.Machine

open Sys2Proof.Safety

variable {C : Config} {s : State}

/-! ## The error of a row -/

/-- The error of a computation that fails. -/
def errorOf {α : Type} : Except CmdError α → Option CmdError
  | .ok _ => none
  | .error e => some e

theorem errorOf_eq_some {α : Type} {r : Except CmdError α} {e : CmdError} : errorOf r = some e ↔ r = .error e := by
  cases r <;> simp [errorOf]

theorem errorOf_eq_none {α : Type} {r : Except CmdError α} : errorOf r = none ↔ ∃ a, r = .ok a := by
  cases r <;> simp [errorOf]

/-- The value words fail for their padding or not at all (R142). -/
theorem errorOf_map_bytesOfWords (ws : List Word) (f : List Byte → Share) :
    errorOf ((bytesOfWords (valueWords ws)).map f) = if paddingSet ws = true then some .invalidPadding else none := by
  by_cases hpad : paddingSet ws = true
  · rw [if_pos hpad, bytesOfWords_of_le ((paddingSet_iff ws).mp hpad)]
    rfl
  · rw [if_neg hpad, bytesOfWords_of_lt (valueWords_lt (Bool.not_eq_true _ ▸ hpad))]
    rfl

/-- The error the rules give a row is that of decoding it: the same checks in the same order (R261, R235). -/
theorem rowError_eq_errorOf (C : Config) (s : State) (m : Fin 256) :
    rowError C s m = errorOf (decodeRow C (s.mnlen[m], s.mn[m])) := by
  have count : s.mnlen[m].toNat < 8 ∨ 33 < s.mnlen[m].toNat ↔ (!inRange 8 33 s.mnlen[m].toNat) = true := by
    rw [not_inRange_iff]
    omega
  rw [decodeRow, shareDecode_eq_map, apply_ite errorOf, apply_ite errorOf, apply_ite errorOf, errorOf_map_bytesOfWords]
  exact if_congr count rfl rfl

theorem decodeRow_of_rowError {m : Fin 256} {e : CmdError} (h : rowError C s m = some e) :
    decodeRow C (s.mnlen[m], s.mn[m]) = .error e := errorOf_eq_some.mp (rowError_eq_errorOf C s m ▸ h)

theorem exists_decodeRow_of_rowError {m : Fin 256} (h : rowError C s m = none) :
    ∃ share, decodeRow C (s.mnlen[m], s.mn[m]) = .ok share := errorOf_eq_none.mp (rowError_eq_errorOf C s m ▸ h)

/-! ## All rows in order (R261) -/

/-- After rows that decode, the first that does not gives its error, whatever follows it. -/
theorem decodeRows_of_first_error {before after : List (BitVec 6 × Vector Word 33)} {row : BitVec 6 × Vector Word 33}
    {e : CmdError} (hbefore : ∀ r ∈ before, ∃ share, decodeRow C r = .ok share) (hrow : decodeRow C row = .error e) :
    decodeRows C (before ++ row :: after) = .error e := by
  induction before with
  | nil =>
    rw [List.nil_append, decodeRows, hrow]
    rfl
  | cons r before ih =>
    obtain ⟨⟨share, hr⟩, hbefore⟩ := List.forall_mem_cons.mp hbefore
    rw [List.cons_append, decodeRows, hr, ih hbefore]
    rfl

/-- The rows of the state at row `m`: those before it, the row itself, and the rest. -/
theorem rows_eq_append_cons {m : Fin 256} (hm : m.val < s.nsh.toNat) :
    s.rows = s.rows.take m.val ++ (s.mnlen[m], s.mn[m]) :: s.rows.drop (m.val + 1) := by
  have inside : m.val < s.rows.length := by simp [State.rows, hm]
  have row : s.rows[m.val] = (s.mnlen[m], s.mn[m]) := by simp [State.rows]
  rw [← row, ← List.drop_eq_getElem_cons inside, List.take_append_drop]

theorem exists_of_mem_take_rows {m : Fin 256} {row : BitVec 6 × Vector Word 33} (h : row ∈ s.rows.take m.val) :
    ∃ j : Fin 256, j < m ∧ row = (s.mnlen[j], s.mn[j]) := by
  obtain ⟨j, hj, rfl⟩ := List.mem_take_iff_getElem.mp h
  have hj : j < m.val := (Nat.lt_min.mp hj).1
  exact ⟨⟨j, hj.trans m.isLt⟩, hj, by simp [State.rows]⟩

/-- The first row with an error ends the decoding of all rows with it. -/
theorem decodeRows_of_rowError {m : Fin 256} {e : CmdError} (hm : m.val < s.nsh.toNat)
    (hbefore : ∀ j : Fin 256, j < m → rowError C s j = none) (he : rowError C s m = some e) :
    decodeRows C s.rows = .error e := by
  rw [rows_eq_append_cons hm]
  refine decodeRows_of_first_error (fun row hrow => ?_) (decodeRow_of_rowError he)
  obtain ⟨j, hj, rfl⟩ := exists_of_mem_take_rows hrow
  exact exists_decodeRow_of_rowError (hbefore j hj)

/-! ## The operands (R270) -/

theorem recoverBody_of_nsh (h : 256 < s.nsh.toNat) : recoverBody C s = .error .invalidOperand := if_pos h

theorem recoverBody_of_plen (hnsh : s.nsh.toNat ≤ 256) (h : C.passMax.val < s.plen.toNat) :
    recoverBody C s = .error .invalidOperand := by
  rw [recoverBody, if_neg (Nat.not_lt.mpr hnsh), if_pos h]

theorem recoverBody_of_no_shares (hplen : s.plen.toNat ≤ C.passMax.val) (h : s.nsh = 0) :
    recoverBody C s = .error .insufficientShares := by
  rw [recoverBody, if_neg (by simp [h]), if_neg (Nat.not_lt.mpr hplen), if_pos h]

/-! ## The statement -/

/-- Settles O55: the operand checks in the order of `recoverBody`, then the rows before `m` decode and row `m` gives its
error. -/
theorem recoverChecksItsOperands : Obligations.RecoverChecksItsOperands := by
  intro s
  refine ⟨fun hnsh => ?_, fun ⟨hnsh, hplen⟩ => ?_, fun ⟨hzero, hplen⟩ => ?_,
    fun ⟨hnsh, hplen⟩ m e hm hbefore he => ?_⟩
  · exact exec_of_error (i := .recover) (recoverBody_of_nsh hnsh)
  · exact exec_of_error (i := .recover) (recoverBody_of_plen hnsh hplen)
  · exact exec_of_error (i := .recover) (recoverBody_of_no_shares hplen hzero)
  · have hpos : s.nsh ≠ 0 := by
      intro hzero
      exact absurd hm (by simp [hzero])
    exact exec_of_error (i := .recover)
      (recoverBody_of_decodeRows_error hnsh hplen hpos (decodeRows_of_rowError hm hbefore he))

end Sys2Proof.Machine
end

section
/-! PROOFS. The checks of `GENERATE` (46_orchestrator.md R252): the group threshold, the length, the member thresholds
and the passphrase, in this order. -/

namespace Sys2Proof.Machine

open Sys2Proof.Safety

variable {s : State}

/-- The group descriptors in use are the cells of the groups below `GC` (R254). -/
theorem forall_mem_groups_iff {P : Nat × Nat → Prop} : (∀ p ∈ s.groups, P p) ↔
    ∀ g : Fin 16, g.val < s.gc.toNat → P (s.grpcnt[g].toNat, s.grpthr[g].toNat) := by
  refine ⟨fun h g hg => h _ (List.mem_iff_getElem.mpr ⟨g, ?_, ?_⟩), fun h p hp => ?_⟩
  · simpa [State.groups] using hg
  · simp [State.groups]
  · obtain ⟨g, hg, rfl⟩ := exists_of_mem_groups hp
    exact h g hg

/-- The check of the member thresholds, cell by cell (R252). -/
theorem not_all_groups_iff : (!s.groups.all (fun p => thresholdOk p.2 p.1)) = true ↔
    ¬ ∀ g : Fin 16, g.val < s.gc.toNat →
      1 ≤ s.grpthr[g].toNat ∧ s.grpthr[g].toNat ≤ s.grpcnt[g].toNat ∧ s.grpcnt[g].toNat ≤ 16 := by
  rw [Bool.not_eq_true', ← Bool.not_eq_true, List.all_eq_true]
  simp only [thresholdOk_iff]
  exact not_congr forall_mem_groups_iff

section
variable (C : Config)

theorem generateBody_of_group (h : ¬ (1 ≤ s.gt.toNat ∧ s.gt.toNat ≤ s.gc.toNat ∧ s.gc.toNat ≤ 16)) :
    generateBody C s = .error .invalidGroupThreshold := if_pos ((not_thresholdOk_iff ..).mpr h)

variable (hgrp : 1 ≤ s.gt.toNat ∧ s.gt.toNat ≤ s.gc.toNat ∧ s.gc.toNat ≤ 16)
include hgrp

theorem generateBody_of_len (h : ¬ (16 ≤ s.len.toNat ∧ s.len.toNat ≤ 32 ∧ s.len.toNat % 2 = 0)) :
    generateBody C s = .error .invalidSecretLength := by
  rw [generateBody, if_neg fun hout => (not_thresholdOk_iff ..).mp hout hgrp,
    if_pos ((not_secretLengthOk_iff _).mpr h)]

variable (hlen : 16 ≤ s.len.toNat ∧ s.len.toNat ≤ 32 ∧ s.len.toNat % 2 = 0)
include hlen

theorem generateBody_of_member (h : ¬ ∀ g : Fin 16, g.val < s.gc.toNat →
    1 ≤ s.grpthr[g].toNat ∧ s.grpthr[g].toNat ≤ s.grpcnt[g].toNat ∧ s.grpcnt[g].toNat ≤ 16) :
    generateBody C s = .error .invalidThreshold := by
  rw [generateBody, if_neg fun hout => (not_thresholdOk_iff ..).mp hout hgrp,
    if_neg fun hout => (not_secretLengthOk_iff _).mp hout hlen, if_pos (not_all_groups_iff.mpr h)]

theorem generateBody_of_plen (hmem : ∀ g : Fin 16, g.val < s.gc.toNat →
    1 ≤ s.grpthr[g].toNat ∧ s.grpthr[g].toNat ≤ s.grpcnt[g].toNat ∧ s.grpcnt[g].toNat ≤ 16)
    (h : C.passMax.val < s.plen.toNat) : generateBody C s = .error .invalidOperand := by
  rw [generateBody, if_neg fun hout => (not_thresholdOk_iff ..).mp hout hgrp,
    if_neg fun hout => (not_secretLengthOk_iff _).mp hout hlen, if_neg fun hout => not_all_groups_iff.mp hout hmem,
    if_pos h]

end

/-- Settles O53: one lemma for each check, under the checks before it. -/
theorem generateValidatesInOrder : Obligations.GenerateValidatesInOrder := by
  intro s grp lenOk mem
  refine ⟨fun hgrp => ?_, fun ⟨hgrp, hlen⟩ => ?_, fun ⟨hgrp, hlen, hmem⟩ => ?_, fun ⟨hgrp, hlen, hmem, hplen⟩ => ?_⟩
  · exact exec_of_error (i := .generate) (generateBody_of_group hardware hgrp)
  · exact exec_of_error (i := .generate) (generateBody_of_len hardware hgrp hlen)
  · exact exec_of_error (i := .generate) (generateBody_of_member hardware hgrp hlen hmem)
  · exact exec_of_error (i := .generate) (generateBody_of_plen hardware hgrp hlen hmem hplen)

end Sys2Proof.Machine
end

section
/-! PROOFS. What `GENERATE` writes (46_orchestrator.md R251 to R255): which mnemonic stands in which row, and where in
the random stream its value was drawn. -/

namespace Sys2Proof.Machine

open Sys2Proof.Safety

/-! ## The rows of the member level -/

section
variable (C : Config) (base : Share)

/-- One mnemonic for each member of each group that has a group share (R253). -/
theorem length_memberMnemonics (drawn g : Nat) {groups : List (Nat × Nat)} {gsh : List (List Byte)}
    (hlen : groups.length = gsh.length) :
    (memberMnemonics C base drawn g groups gsh).length = (groups.map Prod.fst).sum := by
  induction groups generalizing drawn g gsh with
  | nil => cases gsh <;> simp [memberMnemonics]
  | cons group groups ih =>
    cases gsh with
    | nil => simp at hlen
    | cons y gsh => simp [memberMnemonics, ih _ _ (Nat.succ.inj hlen)]

/-- The mnemonic of member `m` of the `k`-th group stands behind those of the groups before it, and its value was split
with the random bytes behind theirs (R253, R255). -/
theorem getElem?_memberMnemonics {n : Nat} (drawn g : Nat) {groups : List (Nat × Nat)} {gsh : List (List Byte)}
    {k m c t : Nat} {y : List Byte} (hlen : ∀ y ∈ gsh, y.length = n) (hgroup : groups[k]? = some (c, t))
    (hy : gsh[k]? = some y) (hm : m < c) :
    (memberMnemonics C base drawn g groups gsh)[((groups.take k).map Prod.fst).sum + m]? =
      some (shareEncode C { base with
        gi := BitVec.ofNat 4 (g + k), mi := BitVec.ofNat 4 m, mt := BitVec.ofNat 5 t,
        value := (shamirSplit C (drawn + ((groups.take k).map (fun p => splitDraws p.2 n)).sum)
          c t y).getD m [] }) := by
  induction k generalizing drawn g groups gsh with
  | zero =>
    obtain ⟨groups, rfl⟩ := List.head?_eq_some_iff.mp (List.head?_eq_getElem? ▸ hgroup)
    obtain ⟨gsh, rfl⟩ := List.head?_eq_some_iff.mp (List.head?_eq_getElem? ▸ hy)
    simp [memberMnemonics, List.getElem?_append_left, hm]
  | succ k ih =>
    cases groups with
    | nil => simp at hgroup
    | cons group groups =>
      cases gsh with
      | nil => simp at hy
      | cons y0 gsh =>
        obtain ⟨rfl, hrest⟩ := List.forall_mem_cons.mp hlen
        have rest := ih (drawn + splitDraws group.2 y0.length) (g + 1) hrest hgroup hy
        rw [Nat.add_right_comm g 1 k, Nat.add_assoc drawn] at rest
        rw [memberMnemonics, List.getElem?_append_right (by simp; omega)]
        simpa [Nat.add_assoc, Nat.add_sub_cancel_left] using rest

end

/-! ## The parameters of a generation, by group -/

section
variable (s : State)

/-- `GRPCNT[g]`. -/
def memberCount (g : Nat) : Nat := if h : g < 16 then s.grpcnt[g].toNat else 0

/-- `GRPTHR[g]`. -/
def memberThreshold (g : Nat) : Nat := if h : g < 16 then s.grpthr[g].toNat else 0

/-- The row of the first member of group `g` (R254). -/
def firstRow (g : Nat) : Nat := ((List.range g).map (memberCount s)).sum

/-- The random bytes drawn before the split of group `g` (R255). -/
def groupDrawn (g : Nat) : Nat :=
  s.rngDrawn + splitDraws s.gt.toNat s.len.toNat +
    ((List.range g).map (fun j => splitDraws (memberThreshold s j) s.len.toNat)).sum

/-- The shares of the groups in the encrypted secret (R251). -/
def groupValues : List (List Byte) :=
  shamirSplit hardware s.rngDrawn s.gc.toNat s.gt.toNat (fourRounds hardware s 0 1 2 3)

/-- The shares of the members of group `g` in the group's share (R251). -/
def memberValues (g : Nat) : List (List Byte) :=
  shamirSplit hardware (groupDrawn s g) (memberCount s g) (memberThreshold s g) ((groupValues s).getD g [])

/-- The share of member `m` of group `g` (R253). -/
def generatedShare (g m : Nat) : Share where
  id := s.id
  ie := s.ie
  gi := BitVec.ofNat 4 g
  gt := s.gt
  gc := s.gc
  mi := BitVec.ofNat 4 m
  mt := s.grpthr[g]?.getD 0
  value := (memberValues s g).getD m []

/-- The operands `GENERATE` accepts (R252). -/
structure GenerateOperands : Prop where
  group : 1 ≤ s.gt.toNat ∧ s.gt.toNat ≤ s.gc.toNat ∧ s.gc.toNat ≤ 16
  length : 16 ≤ s.len.toNat ∧ s.len.toNat ≤ 32 ∧ s.len.toNat % 2 = 0
  member : ∀ g : Fin 16, g.val < s.gc.toNat →
    1 ≤ s.grpthr[g].toNat ∧ s.grpthr[g].toNat ≤ s.grpcnt[g].toNat ∧ s.grpcnt[g].toNat ≤ 16
  passphrase : s.plen.toNat ≤ 128

end

section
variable {s : State} {g m : Nat}

theorem ofNat_memberThreshold (hg : g < 16) : BitVec.ofNat 5 (memberThreshold s g) = s.grpthr[g]?.getD 0 := by
  simp [memberThreshold, hg]

theorem groups_eq_map_range (h : s.gc.toNat ≤ 16) :
    s.groups = (List.range s.gc.toNat).map (fun g => (memberCount s g, memberThreshold s g)) := by
  refine List.ext_getElem (by simp [State.groups, h]) fun g hg hg' => ?_
  have hg : g < 16 := by
    simp only [List.length_map, List.length_range] at hg'
    omega
  simp [State.groups, memberCount, memberThreshold, hg]

/-- What is computed of the groups before group `g` is a sum over their indices. -/
theorem sum_map_take_groups (h : s.gc.toNat ≤ 16) (hg : g ≤ s.gc.toNat) (f : Nat × Nat → Nat) :
    ((s.groups.take g).map f).sum =
      ((List.range g).map (fun j => f (memberCount s j, memberThreshold s j))).sum := by
  rw [groups_eq_map_range h, ← List.map_take, List.take_range, Nat.min_eq_left hg, List.map_map]
  rfl

namespace GenerateOperands

variable (h : GenerateOperands s)
include h

theorem gc_le : s.gc.toNat ≤ 16 := h.group.2.2

theorem len_le : s.len.toNat ≤ 32 := h.length.2.1

theorem len_even : s.len.toNat % 2 = 0 := h.length.2.2

/-- The member check, for the number of a group. -/
theorem memberThreshold_le (hg : g < s.gc.toNat) :
    1 ≤ memberThreshold s g ∧ memberThreshold s g ≤ memberCount s g ∧ memberCount s g ≤ 16 := by
  have hg' : g < 16 := hg.trans_le h.gc_le
  simpa [memberThreshold, memberCount, hg'] using h.member ⟨g, hg'⟩ hg

theorem memberCount_le (hg : g < s.gc.toNat) : memberCount s g ≤ 16 := (h.memberThreshold_le hg).2.2

/-- All mnemonics have room in `MN`. -/
theorem firstRow_le : firstRow s s.gc.toNat ≤ 256 := by
  have bound := List.sum_le_card_nsmul ((List.range s.gc.toNat).map (memberCount s)) 16 fun c hc => by
    obtain ⟨g, hg, rfl⟩ := List.mem_map.mp hc
    exact h.memberCount_le (List.mem_range.mp hg)
  have hgc := h.gc_le
  simp only [List.length_map, List.length_range, smul_eq_mul] at bound
  rw [firstRow]
  omega

/-- The secret encrypted before it is split (R251). -/
theorem encrypted_eq : feistelEncrypt hardware s.value s.id s.ie s.passphrase = fourRounds hardware s 0 1 2 3 :=
  feistel_eq_fourRounds hardware h.len_le h.len_even 0 1 2 3

theorem length_encrypted : (fourRounds hardware s 0 1 2 3).length = s.len.toNat := by
  have hvalue := length_value h.len_le
  rw [← h.encrypted_eq, feistelEncrypt, length_feistel _ _ _ _ _ _ (hvalue ▸ h.len_even), hvalue]

theorem length_of_mem_groupValues : ∀ y ∈ groupValues s, y.length = s.len.toNat := by
  have four : 4 ≤ (fourRounds hardware s 0 1 2 3).length := by
    rw [h.length_encrypted]
    exact le_trans (by decide) h.length.1
  exact fun y hy => (length_of_mem_shamirSplit _ _ _ _ _ four y hy).trans h.length_encrypted

/-- The row of member `m` of group `g` among the mnemonics generated (R254). -/
theorem getElem?_generate (hg : g < s.gc.toNat) (hm : m < memberCount s g) :
    (generate hardware s.rngDrawn s.value s.ie s.id s.passphrase s.gt s.gc s.groups)[firstRow s g + m]? =
      some (shareEncode hardware (generatedShare s g m)) := by
  have hgc := h.gc_le
  have hgroup : s.groups[g]? = some (memberCount s g, memberThreshold s g) := by
    simp [groups_eq_map_range hgc, hg]
  have hy : (groupValues s)[g]? = some ((groupValues s).getD g []) := by
    rw [List.getD_eq_getElem?_getD, List.getElem?_eq_getElem (by simpa [groupValues] using hg), Option.getD_some]
  have row := getElem?_memberMnemonics hardware
    { id := s.id, ie := s.ie, gi := 0, gt := s.gt, gc := s.gc, mi := 0, mt := 0, value := [] }
    (s.rngDrawn + splitDraws s.gt.toNat s.len.toNat) 0 h.length_of_mem_groupValues hgroup hy hm
  rw [sum_map_take_groups hgc hg.le, sum_map_take_groups hgc hg.le, ofNat_memberThreshold (hg.trans_le hgc),
    Nat.zero_add] at row
  simp only [generate, h.encrypted_eq, h.length_encrypted]
  exact row

theorem length_generate :
    (generate hardware s.rngDrawn s.value s.ie s.id s.passphrase s.gt s.gc s.groups).length =
      firstRow s s.gc.toNat := by
  have hgc := h.gc_le
  rw [generate, length_memberMnemonics _ _ _ _ (by simp [State.groups, hgc]), groups_eq_map_range hgc, List.map_map]
  rfl

/-- How much `GENERATE` draws (R255). -/
theorem drawn_eq : s.rngDrawn + generateDraws s.gt.toNat s.len.toNat s.groups = groupDrawn s s.gc.toNat := by
  rw [generateDraws, groups_eq_map_range h.gc_le, List.map_map, ← Nat.add_assoc]
  rfl

/-- What a valid `GENERATE` does (R254). -/
theorem exec_generate : ∃ t, exec .generate s = .next t ∧ t.status = statusOk ∧
    t.nsh.toNat = firstRow s s.gc.toNat ∧ t.rngDrawn = groupDrawn s s.gc.toNat ∧
    SameBut (mayWrite .generate s) s t ∧
    ∀ (g m : Nat) (row : Fin 256), g < s.gc.toNat → m < memberCount s g → row.val = firstRow s g + m →
      holdsMnemonic t row (shareEncode hardware (generatedShare s g m)) := by
  have body : commandBody hardware .generate s = .ok _ :=
    generateBody_eq_ok.mpr ⟨h.group, h.length, forall_mem_groups_iff.mpr h.member, h.passphrase, rfl⟩
  obtain ⟨he, frame⟩ := exec_of_ok body
  have room := h.firstRow_le
  refine ⟨_, he, rfl, ?_, h.drawn_eq, frame, fun g m row hg hm hrow => ?_⟩
  · rw [State.succeed_nsh, State.putMnemonics_nsh, h.length_generate, BitVec.toNat_ofNat, Nat.mod_eq_of_lt (by omega)]
  · obtain ⟨hlt, words⟩ := List.getElem?_eq_some_iff.mp (hrow ▸ h.getElem?_generate hg hm)
    have fits := length_of_mem_generate_le (List.getElem_mem hlt)
    rw [length_value h.len_le] at fits
    rw [← words]
    exact holdsMnemonic_putMnemonics s (s.rngDrawn + generateDraws s.gt.toNat s.len.toNat s.groups) row hlt
      (fits.trans (Nat.add_le_add_left (wordCount_le h.len_le) 7))

end GenerateOperands

end

/-- Settles O54: `exec_generate`, whose definitions are the statement's. -/
theorem generateWritesEveryMember : Obligations.GenerateWritesEveryMember :=
  fun _ hmin hle hmax hlo hhi heven hplen hmem =>
    GenerateOperands.exec_generate ⟨⟨hmin, hle, hmax⟩, ⟨hlo, hhi, heven⟩, hmem, hplen⟩

end Sys2Proof.Machine
end

section
/-! PROOFS. How shares are grouped (46_orchestrator.md R264): the groups of shares that belong together are those the
rules' words describe, and a share that does not fit the ones before it ends the grouping with its error. -/

namespace Sys2Proof.Machine

open Sys2Proof.Safety

/-! ## One share into the groups -/

/-- A share into the group of its index: the member threshold is tested first, the member index second (R264). -/
def joinGroup (h : Share) (g : Group) : Except CmdError Group :=
  if h.mt ≠ g.mt then .error .memberThresholdMismatch
  else if g.members.any (fun m => m.1 == h.mi) then .error .duplicateMemberIndex
  else .ok { g with members := g.members ++ [(h.mi, h.value)] }

theorem addShare_cons_of_eq {h : Share} {g : Group} {gs : List Group} (hgi : g.gi = h.gi) :
    addShare h (g :: gs) = (joinGroup h g).map (· :: gs) := by
  rw [addShare, if_pos hgi, joinGroup]
  split_ifs <;> rfl

theorem addShare_cons_of_ne {h : Share} {g : Group} {gs : List Group} (hgi : g.gi ≠ h.gi) :
    addShare h (g :: gs) = (addShare h gs).map (g :: ·) := if_neg hgi

section
variable {h : Share} {order : List (BitVec 4)} {f : BitVec 4 → Group} (hf : ∀ i, (f i).gi = i)
include hf

/-- A share of a new group index makes a group at the end. -/
theorem addShare_of_not_mem (hnew : h.gi ∉ order) :
    addShare h (order.map f) = .ok (order.map f ++ [{ gi := h.gi, mt := h.mt, members := [(h.mi, h.value)] }]) := by
  induction order with
  | nil => rfl
  | cons i order ih =>
    obtain ⟨hi, hnew⟩ := not_or.mp (mt List.mem_cons.mpr hnew)
    rw [List.map_cons, addShare_cons_of_ne (by rw [hf]; exact Ne.symm hi), ih hnew]
    rfl

/-- A share of a group that is there goes into it, and the other groups stay. -/
theorem addShare_of_mem (hnodup : order.Nodup) (hmem : h.gi ∈ order) :
    addShare h (order.map f) =
      (joinGroup h (f h.gi)).map (fun g => order.map (Function.update f h.gi g)) := by
  induction order with
  | nil => simp at hmem
  | cons i order ih =>
    obtain ⟨hi, hnodup⟩ := List.nodup_cons.mp hnodup
    by_cases hgi : i = h.gi
    · subst hgi
      have rest (g : Group) : order.map (Function.update f h.gi g) = order.map f :=
        List.map_congr_left fun j hj => Function.update_of_ne (ne_of_mem_of_not_mem hj hi) g f
      simp only [List.map_cons, addShare_cons_of_eq (hf h.gi), Function.update_self, rest]
    · have hmem := (List.mem_cons.mp hmem).resolve_left (Ne.symm hgi)
      rw [List.map_cons, addShare_cons_of_ne (by rwa [hf]), ih hnodup hmem]
      cases joinGroup h (f h.gi) with
      | error e => rfl
      | ok g => simp [Except.map, Function.update_of_ne hgi]

end

/-! ## The groups of shares -/

section
variable (hs : List Share)

/-- The group with index `i`, as the recovery holds it (R264). -/
def groupOf (i : BitVec 4) : Group where
  gi := i
  mt := ((membersOf hs i).map Share.mt).headD 0
  members := (membersOf hs i).map (fun h => (h.mi, h.value))

/-- All groups, in order of first appearance. -/
def groupsOf : List Group := (groupOrder hs).map (groupOf hs)

end

variable {done : List Share} {h : Share}

theorem mem_groupOrder {hs : List Share} {i : BitVec 4} : i ∈ groupOrder hs ↔ ∃ a ∈ hs, a.gi = i := by
  simp [groupOrder]

/-- One more share brings in its group index, if that is new. -/
theorem groupOrder_concat :
    groupOrder (done ++ [h]) = if h.gi ∈ groupOrder done then groupOrder done else groupOrder done ++ [h.gi] := by
  simp only [groupOrder, List.mem_eraseDups, List.map_append, List.map_cons, List.map_nil, List.eraseDups_append]
  by_cases hmem : h.gi ∈ done.map Share.gi
  · simp [List.removeAll, hmem, -List.mem_map]
  · simp [List.removeAll, List.eraseDups_cons, hmem, -List.mem_map]

theorem nodup_groupOrder (hs : List Share) : (groupOrder hs).Nodup := by
  induction hs using List.reverseRecOn with
  | nil => exact List.nodup_nil
  | append_singleton hs h ih =>
    rw [groupOrder_concat]
    split
    next => exact ih
    next hnew => simpa using ih.concat hnew

theorem membersOf_concat_self : membersOf (done ++ [h]) h.gi = membersOf done h.gi ++ [h] := by
  simp [membersOf]

theorem groupOf_concat_of_ne {i : BitVec 4} (hi : i ≠ h.gi) : groupOf (done ++ [h]) i = groupOf done i := by
  have members : membersOf (done ++ [h]) i = membersOf done i := by simp [membersOf, Ne.symm hi]
  rw [groupOf, members, groupOf]

theorem groupOf_concat_of_not_mem (hnew : h.gi ∉ groupOrder done) :
    groupOf (done ++ [h]) h.gi = { gi := h.gi, mt := h.mt, members := [(h.mi, h.value)] } := by
  have members : membersOf done h.gi = [] :=
    List.filter_eq_nil_iff.mpr fun a ha hgi => hnew (mem_groupOrder.mpr ⟨a, ha, by simpa using hgi⟩)
  simp [groupOf, membersOf_concat_self, members]

theorem mem_membersOf {hs : List Share} {i : BitVec 4} {a : Share} : a ∈ membersOf hs i ↔ a ∈ hs ∧ a.gi = i := by
  simp [membersOf]

/-- A group that is there has a first member, which gives it its threshold. -/
theorem exists_membersOf_eq_cons {i : BitVec 4} (hmem : i ∈ groupOrder done) :
    ∃ a rest, membersOf done i = a :: rest ∧ a ∈ done ∧ a.gi = i := by
  obtain ⟨b, hb, hgi⟩ := mem_groupOrder.mp hmem
  obtain ⟨a, rest, members⟩ := List.exists_cons_of_ne_nil (List.ne_nil_of_mem (mem_membersOf.mpr ⟨hb, hgi⟩))
  exact ⟨a, rest, members, mem_membersOf.mp (members ▸ List.mem_cons_self)⟩

theorem groupOf_concat_of_mem (hmem : h.gi ∈ groupOrder done) :
    groupOf (done ++ [h]) h.gi =
      { groupOf done h.gi with members := (groupOf done h.gi).members ++ [(h.mi, h.value)] } := by
  obtain ⟨a, rest, members, -⟩ := exists_membersOf_eq_cons hmem
  simp [groupOf, membersOf_concat_self, members]

/-- A share that fits the members of its group joins them. -/
theorem joinGroup_of_compatible (hmem : h.gi ∈ groupOrder done) (hfit : ∀ a ∈ done, compatible a h) :
    joinGroup h (groupOf done h.gi) = .ok (groupOf (done ++ [h]) h.gi) := by
  have threshold : h.mt = (groupOf done h.gi).mt := by
    obtain ⟨a, rest, members, ha, hgi⟩ := exists_membersOf_eq_cons hmem
    simp [groupOf, members, (hfit a ha hgi).1]
  have index : ¬ (groupOf done h.gi).members.any (fun m => m.1 == h.mi) = true := by
    simp only [groupOf, List.any_map, List.any_eq_true, mem_membersOf]
    rintro ⟨a, ⟨ha, hgi⟩, hmi⟩
    exact (hfit a ha hgi).2 (by simpa using hmi)
  rw [joinGroup, if_neg (not_not.mpr threshold), if_neg index, groupOf_concat_of_mem hmem]

/-- A share that fits all before it is grouped with them. -/
theorem addShare_groupsOf (hfit : ∀ a ∈ done, compatible a h) :
    addShare h (groupsOf done) = .ok (groupsOf (done ++ [h])) := by
  rw [groupsOf, groupsOf, groupOrder_concat]
  split
  next hmem =>
    rw [addShare_of_mem (fun _ => rfl) (nodup_groupOrder done) hmem, joinGroup_of_compatible hmem hfit]
    have updated : Function.update (groupOf done) h.gi (groupOf (done ++ [h]) h.gi) = groupOf (done ++ [h]) :=
      (Function.eq_update_iff.mpr ⟨rfl, fun i hi => groupOf_concat_of_ne hi⟩).symm
    rw [← updated]
    simp [Except.map]
  next hnew =>
    have others : (groupOrder done).map (groupOf (done ++ [h])) = (groupOrder done).map (groupOf done) :=
      List.map_congr_left fun i hi => groupOf_concat_of_ne (ne_of_mem_of_not_mem hi hnew)
    rw [addShare_of_not_mem (fun _ => rfl) hnew, List.map_append, others, List.map_singleton,
      groupOf_concat_of_not_mem hnew]

/-! ## All shares -/

/-- Shares that belong together make the groups of the rules' words (R264). -/
theorem groupShares_groupsOf {hs : List Share} (hfit : (done ++ hs).Pairwise compatible) :
    groupShares hs (groupsOf done) = .ok (groupsOf (done ++ hs)) := by
  induction hs generalizing done with
  | nil => simp [groupShares]
  | cons h hs ih =>
    have before : ∀ a ∈ done, compatible a h :=
      fun a ha => (List.pairwise_append.mp hfit).2.2 a ha h List.mem_cons_self
    rw [groupShares, addShare_groupsOf before, List.append_cons done h hs]
    exact ih (List.append_cons done h hs ▸ hfit)

theorem groupShares_of_compatible {hs : List Share} (hfit : hs.Pairwise compatible) :
    groupShares hs [] = .ok (groupsOf hs) := groupShares_groupsOf (done := []) hfit

/-- The first share that does not fit the ones before it ends the grouping with its error, whatever follows it. -/
theorem groupShares_of_first_error {before after : List Share} {e : CmdError} (hbefore : before.Pairwise compatible)
    (hmem : h.gi ∈ groupOrder before) (he : joinGroup h (groupOf before h.gi) = .error e) :
    groupShares (before ++ h :: after) [] = .error e := by
  have append (hs : List Share) (gs : List Group) :
      groupShares (hs ++ h :: after) gs = (groupShares hs gs).bind (groupShares (h :: after)) := by
    induction hs generalizing gs with
    | nil => rfl
    | cons a hs ih =>
      rw [List.cons_append, groupShares, groupShares]
      cases addShare a gs with
      | error e => rfl
      | ok gs => exact ih gs
  rw [append, groupShares_of_compatible hbefore]
  show (addShare h (groupsOf before)).bind _ = _
  rw [groupsOf, addShare_of_mem (fun _ => rfl) (nodup_groupOrder before) hmem, he]
  rfl

/-- Members of one group agree in their threshold, which is the group's. -/
theorem mt_groupOf (hdone : done.Pairwise compatible) {a : Share} (ha : a ∈ done) : (groupOf done a.gi).mt = a.mt := by
  obtain ⟨b, rest, members, hb, hgi⟩ := exists_membersOf_eq_cons (mem_groupOrder.mpr ⟨a, ha, rfl⟩)
  have fit : (b :: rest).Pairwise compatible := members ▸ hdone.sublist List.filter_sublist
  have threshold : (groupOf done a.gi).mt = b.mt := by simp [groupOf, members]
  rw [threshold]
  rcases List.mem_cons.mp (members ▸ mem_membersOf.mpr ⟨ha, rfl⟩) with rfl | hrest
  · rfl
  · exact (List.rel_of_pairwise_cons fit hrest hgi).1

/-- A share whose threshold is not that of a member of its group (R264). -/
theorem joinGroup_of_threshold (hdone : done.Pairwise compatible) {a : Share} (ha : a ∈ done) (hgi : a.gi = h.gi)
    (hmt : a.mt ≠ h.mt) : joinGroup h (groupOf done h.gi) = .error .memberThresholdMismatch := by
  rw [joinGroup, ← hgi, mt_groupOf hdone ha, if_pos (Ne.symm hmt)]

/-- A share whose member index its group holds already, the thresholds being equal (R264). -/
theorem joinGroup_of_index (hdone : done.Pairwise compatible) {a : Share} (ha : a ∈ done) (hgi : a.gi = h.gi)
    (hmt : a.mt = h.mt) (hmi : a.mi = h.mi) :
    joinGroup h (groupOf done h.gi) = .error .duplicateMemberIndex := by
  have held : (groupOf done h.gi).members.any (fun m => m.1 == h.mi) = true :=
    List.any_eq_true.mpr ⟨_, List.mem_map_of_mem (mem_membersOf.mpr ⟨ha, hgi⟩), by simpa using hmi⟩
  rw [joinGroup, if_neg (not_not.mpr ?_), if_pos held]
  rw [← hgi, mt_groupOf hdone ha, hmt]

end Sys2Proof.Machine
end

section
/-! PROOFS. `RECOVER` on the mnemonics of true shares (46_orchestrator.md R261 to R264): the rows decode to the shares,
and shares that do not belong together are rejected. -/

namespace Sys2Proof.Machine

open Sys2Proof.Safety

variable {s : State} {h0 : Share} {hs : List Share}

/-! ## The shares the rows hold -/

/-- The mnemonic of a legal share decodes to it when `gt <= gc` and the length is no multiple of 5 (R237). -/
theorem shareDecode_shareEncode_self (C : Config) {h : Share} (hlegal : legalShare h) (hgt : h.gt.toNat ≤ h.gc.toNat)
    (hfive : h.value.length % 5 ≠ 0) : shareDecode C (shareEncode C h) = .ok h := by
  obtain ⟨x, b, hvalue⟩ := List.exists_cons_of_length_pos (Nat.pos_of_ne_zero fun h0 => hfive (by rw [h0]))
  rw [shareDecode_shareEncode C hlegal hvalue, if_neg (Nat.not_lt.mpr hgt), if_pos hfive]

/-- Rows that decode one by one decode together (R261). -/
theorem decodeRows_of_forall₂ {C : Config} {rows : List (BitVec 6 × Vector Word 33)} {shares : List Share}
    (h : List.Forall₂ (fun row share => decodeRow C row = .ok share) rows shares) : decodeRows C rows = .ok shares := by
  induction h with
  | nil => rfl
  | cons hrow _ ih => exact decodeRows_cons_ok.mpr ⟨_, _, hrow, ih, rfl⟩

theorem decodeRows_of_holdsShares (h : holdsShares s hs) : decodeRows hardware s.rows = .ok hs := by
  obtain ⟨hroom, hnsh, hrows⟩ := h
  have count : s.rows.length = hs.length := (length_rows (hnsh ▸ hroom)).trans hnsh
  refine decodeRows_of_forall₂ (List.forall₂_iff_get.mpr ⟨count, fun k hk hk' => ?_⟩)
  obtain ⟨m, rfl⟩ : ∃ m : Fin 256, m.val = k := ⟨⟨k, hk'.trans_le hroom⟩, rfl⟩
  obtain ⟨hlegal, hgt, hfive, hholds⟩ := hrows m _ (List.getElem?_eq_getElem hk')
  have decoded := shareDecode_shareEncode_self hardware hlegal hgt hfive
  obtain ⟨-, -, -, hlength⟩ := hlegal
  have row : s.rows[m.val] = (s.mnlen[m], s.mn[m]) := by simp [State.rows]
  rw [List.get_eq_getElem, List.get_eq_getElem, row,
    decodeRow_of_holdsMnemonic hardware hholds (length_shareEncode_mem hardware hlength)]
  exact decoded

/-- On true shares `RECOVER` ends as the recovery from them does (R270). -/
theorem recoverBody_of_holdsShares (hplen : s.plen.toNat ≤ 128) (h : holdsShares s (h0 :: hs)) :
    recoverBody hardware s = (recoverShares hardware s.passphrase h0 hs).map s.putValue := by
  have hrows := decodeRows_of_holdsShares h
  obtain ⟨hroom, hnsh, -⟩ := h
  have hpos : s.nsh ≠ 0 := fun hzero => by simp [hzero] at hnsh
  have capacity : ¬ hardware.passMax.val < s.plen.toNat := Nat.not_lt.mpr hplen
  rw [recoverBody, if_neg (by omega), if_neg capacity, if_neg hpos, hrows]
  rfl

theorem exec_recover_of_error (hplen : s.plen.toNat ≤ 128) (h : holdsShares s (h0 :: hs)) {e : CmdError}
    (he : recoverShares hardware s.passphrase h0 hs = .error e) :
    exec .recover s = .next { s with status := statusError e } := by
  refine exec_of_error (i := .recover) ((recoverBody_of_holdsShares hplen h).trans ?_)
  rw [he]
  rfl

theorem exec_recover_of_ok (hplen : s.plen.toNat ≤ 128) (h : holdsShares s (h0 :: hs)) {b : List Byte}
    (hb : recoverShares hardware s.passphrase h0 hs = .ok b) : exec .recover s = .next (s.putValue b).succeed ∧
      SameBut (mayWrite .recover s) s (s.putValue b).succeed := by
  refine exec_of_ok (i := .recover) ((recoverBody_of_holdsShares hplen h).trans ?_)
  rw [hb]
  rfl

/-! ## Shares that do not belong together -/

section
variable {C : Config} {pp : List Byte}

/-- Step 2 (R262). -/
theorem recoverShares_of_not_same (h : ¬ ∀ a ∈ hs, sameFour a h0) :
    recoverShares C pp h0 hs = .error .inconsistentShareSet := by
  have differ : (!hs.all (sameBackup h0)) = true := by
    rw [Bool.not_eq_true', ← Bool.not_eq_true, List.all_eq_true]
    exact fun all => h fun a ha => (sameBackup_iff h0 a).mp (all a ha)
  exact if_pos differ

/-- Past the checks of steps 2 and 2b the shares are grouped (R264). -/
theorem recoverShares_of_same (hsame : ∀ a ∈ hs, sameFour a h0)
    (hlen : 16 ≤ h0.value.length ∧ h0.value.length ≤ 32 ∧ h0.value.length % 2 = 0) :
    recoverShares C pp h0 hs = (groupShares (h0 :: hs) []).bind (fun gs => (selectGroups h0.gt.toNat gs).bind
      (recoverSecret C h0.gt.toNat h0.value.length h0.id h0.ie pp)) := by
  have all : hs.all (sameBackup h0) = true := List.all_eq_true.mpr fun a ha => (sameBackup_iff h0 a).mpr (hsame a ha)
  rw [recoverShares, if_neg (by simp [all]), if_neg fun hout => (not_secretLengthOk_iff _).mp hout hlen]

end

/-- Settles O57: the checks of R262 and R263, and the grouping up to the first share that does not fit. -/
theorem recoverRejectsMixedShares : Obligations.RecoverRejectsMixedShares := by
  intro s h0 hs hplen hholds n same lenOk
  refine ⟨fun hsame => ?_, fun ⟨hsame, hlen⟩ => ?_, fun ⟨hsame, hlen⟩ before after h hsplit hbefore a ha hgi => ?_⟩
  · exact exec_recover_of_error hplen hholds (recoverShares_of_not_same hsame)
  · exact exec_recover_of_error hplen hholds (recoverShares_of_length hsame hlen)
  · have rejected {e : CmdError} (he : joinGroup h (groupOf before h.gi) = .error e) :
        exec .recover s = .next { s with status := statusError e } := by
      refine exec_recover_of_error hplen hholds ((recoverShares_of_same hsame hlen).trans ?_)
      rw [hsplit, groupShares_of_first_error hbefore (mem_groupOrder.mpr ⟨a, ha, hgi⟩) he]
      rfl
    exact ⟨fun hmt => rejected (joinGroup_of_threshold hbefore ha hgi hmt),
      fun ⟨hmt, hmi⟩ => rejected (joinGroup_of_index hbefore ha hgi hmt hmi)⟩

end Sys2Proof.Machine
end

section
/-! PROOFS. `RECOVER` on the mnemonics of true shares that belong together (46_orchestrator.md R265 to R267): the groups
used, the points they give, and the secret, by the polynomials of the rules. -/

namespace Sys2Proof.Machine

open Sys2Proof.Safety

variable {p : Ports} {t n gt : Nat} {hs : List Share} {i : BitVec 4}

/-! ## Results that fail for a digest only -/

/-- A missing result as `DigestMismatch`, the one error of a recovery from given points (R187, R266). -/
def orDigestMismatch {α : Type} (o : Option α) : Except CmdError α := o.elim (.error .digestMismatch) .ok

theorem map_orDigestMismatch {α β : Type} (o : Option α) (f : α → β) :
    (orDigestMismatch o).map f = orDigestMismatch (o.map f) := by cases o <;> rfl

theorem bind_orDigestMismatch {α β : Type} (o : Option α) (f : α → Option β) :
    (orDigestMismatch o).bind (fun a => orDigestMismatch (f a)) = orDigestMismatch (o.bind f) := by cases o <;> rfl

theorem orDigestMismatch_eq_ok {α : Type} {o : Option α} {a : α} : orDigestMismatch o = .ok a ↔ o = some a := by
  cases o <;> simp [orDigestMismatch]

/-! ## One recovery -/

/-- Recovery from exactly `t` points is the combination by the polynomial (R187). -/
theorem shamirRecover_eq_combine {pts : List (Byte × List Byte)} (hcount : pts.length = t)
    (hxs : (pts.map Prod.fst).Nodup) (hlen : ∀ pt ∈ pts, pt.2.length = n) :
    shamirRecover (configWith p) t pts n = orDigestMismatch (combine (configWith p) t pts n) := by
  by_cases ht : t = 1
  · subst ht
    obtain ⟨pt, rfl⟩ := List.length_eq_one_iff.mp hcount
    have whole : pt.2.take n = pt.2 := List.take_of_length_le (hlen pt List.mem_cons_self).le
    rw [shamirRecover_one, List.headD_cons, whole]
    rfl
  · have used : pts.take t = pts := List.take_of_length_le hcount.le
    rw [shamirRecover_eq_ite ht (used.symm ▸ hxs) hlen, used, combine]
    simp only [if_neg ht]
    split <;> rfl

theorem length_of_combine {C : Config} {pts : List (Byte × List Byte)} {b : List Byte}
    (hlen : ∀ pt ∈ pts, pt.2.length = n) (h : combine C t pts n = some b) : b.length = n := by
  rw [combine] at h
  split_ifs at h
  · obtain ⟨pt, hpt, rfl⟩ := List.mem_map.mp (List.mem_of_mem_head? h)
    exact hlen pt hpt
  · rw [← Option.some.inj h, length_lagrangeValue]

/-! ## The groups -/

theorem toNat_mt_groupOf (hs : List Share) (i : BitVec 4) : (groupOf hs i).mt.toNat = thresholdOf hs i := by
  rw [groupOf, thresholdOf]
  cases membersOf hs i <;> rfl

theorem qualifies_groupOf (hs : List Share) (i : BitVec 4) :
    (groupOf hs i).qualifies = decide (thresholdOf hs i ≤ (membersOf hs i).length) := by
  rw [Group.qualifies, toNat_mt_groupOf, groupOf, List.length_map]

/-- Step 4 on the groups of shares (R265). -/
theorem selectGroups_groupsOf :
    selectGroups gt (groupsOf hs) =
      if (groupOrder hs).length < gt then .error .insufficientShares
      else if (fullGroups hs).length < gt then .error .notEnoughMemberShards
      else .ok (((fullGroups hs).take gt).map (groupOf hs)) := by
  have used : ((groupsOf hs).filter Group.qualifies).take gt = ((fullGroups hs).take gt).map (groupOf hs) := by
    rw [groupsOf, List.filter_map, List.map_take, fullGroups]
    simp only [Function.comp_def, qualifies_groupOf]
  have short : min gt (fullGroups hs).length < gt ↔ (fullGroups hs).length < gt := by omega
  simp only [selectGroups, used, List.length_map, List.length_take, short]
  simp only [groupsOf, List.length_map]

/-- The points a group is recovered from: its first members (R266). -/
def memberPoints (hs : List Share) (i : BitVec 4) : List (Byte × List Byte) :=
  ((membersOf hs i).take (thresholdOf hs i)).map (fun h => (h.mi.setWidth 8, h.value))

theorem groupPoint_eq (C : Config) (hs : List Share) (n : Nat) (i : BitVec 4) :
    groupPoint C hs n i =
      (combine C (thresholdOf hs i) (memberPoints hs i) n).map (fun y => (i.setWidth 8, y)) := rfl

theorem recoverGroup_groupOf (C : Config) (hs : List Share) (n : Nat) (i : BitVec 4) :
    recoverGroup C n (groupOf hs i) =
      (shamirRecover C (thresholdOf hs i) (memberPoints hs i) n).map (fun y => (i.setWidth 8, y)) := by
  have members : ((groupOf hs i).members.take (thresholdOf hs i)).map (fun m => (m.1.setWidth 8, m.2)) =
      memberPoints hs i := by
    rw [groupOf, ← List.map_take, List.map_map]
    rfl
  rw [recoverGroup, toNat_mt_groupOf, members]
  rfl

theorem length_of_mem_memberPoints (hlen : ∀ a ∈ hs, a.value.length = n) :
    ∀ pt ∈ memberPoints hs i, pt.2.length = n := by
  intro pt hpt
  obtain ⟨a, ha, rfl⟩ := List.mem_map.mp hpt
  exact hlen a (mem_membersOf.mp (List.mem_of_mem_take ha)).1

/-- The member indices of a group differ (R264). -/
theorem nodup_memberPoints (hfit : hs.Pairwise compatible) : ((memberPoints hs i).map Prod.fst).Nodup := by
  have indices : ((membersOf hs i).map Share.mi).Nodup := by
    refine List.pairwise_map.mpr ((hfit.sublist List.filter_sublist).imp_of_mem fun {a b} ha hb hab => ?_)
    exact (hab ((mem_membersOf.mp ha).2.trans (mem_membersOf.mp hb).2.symm)).2
  have xs : (memberPoints hs i).map Prod.fst =
      (((membersOf hs i).map Share.mi).take (thresholdOf hs i)).map (BitVec.setWidth 8) := by
    simp [memberPoints, Function.comp_def]
  rw [xs]
  exact nodup_map_setWidth (indices.sublist (List.take_sublist _ _))

theorem length_memberPoints (hi : i ∈ fullGroups hs) : (memberPoints hs i).length = thresholdOf hs i := by
  have full := of_decide_eq_true (List.mem_filter.mp hi).2
  rw [memberPoints, List.length_map, List.length_take_of_le full]

theorem length_of_sameFour {h0 : Share} (hsame : ∀ a ∈ hs, sameFour a h0) :
    ∀ a ∈ h0 :: hs, a.value.length = h0.value.length := by
  refine List.forall_mem_cons.mpr ⟨rfl, fun a ha => ?_⟩
  obtain ⟨-, -, -, length⟩ := hsame a ha
  exact length

/-! ## Two levels -/

theorem mapM_cons_eq_bind {α β : Type} (f : α → Option β) (x : α) (l : List α) :
    (x :: l).mapM f = (f x).bind (fun y => (l.mapM f).map (y :: ·)) := by
  simp only [List.mapM_cons, Option.map_eq_bind]
  rfl

/-- What a list of results that are all there consists of. -/
theorem exists_of_mem_mapM {α β : Type} {f : α → Option β} {l : List α} {r : List β} (h : l.mapM f = some r) {y : β}
    (hy : y ∈ r) : ∃ x ∈ l, f x = some y := by
  induction l generalizing r with
  | nil =>
    obtain rfl := Option.some.inj h
    simp at hy
  | cons x l ih =>
    simp only [mapM_cons_eq_bind, Option.bind_eq_some_iff, Option.map_eq_some_iff] at h
    obtain ⟨z, hz, rest, hrest, rfl⟩ := h
    rcases List.mem_cons.mp hy with rfl | hy
    · exact ⟨x, List.mem_cons_self, hz⟩
    · obtain ⟨x', hx', hfx'⟩ := ih hrest hy
      exact ⟨x', List.mem_cons_of_mem x hx', hfx'⟩

section
variable (hlen : ∀ a ∈ hs, a.value.length = n)
include hlen

theorem length_of_groupPoint {pt : Byte × List Byte} (h : groupPoint (configWith p) hs n i = some pt) :
    pt.2.length = n := by
  rw [groupPoint_eq, Option.map_eq_some_iff] at h
  obtain ⟨y, hy, rfl⟩ := h
  exact length_of_combine (length_of_mem_memberPoints hlen) hy

theorem length_of_combineGroups {ems : List Byte} (h : combineGroups (configWith p) hs gt n = some ems) :
    ems.length = n := by
  obtain ⟨pts, hpts, hems⟩ := Option.bind_eq_some_iff.mp h
  refine length_of_combine (fun pt hpt => ?_) hems
  obtain ⟨i, -, hi⟩ := exists_of_mem_mapM hpts hpt
  exact length_of_groupPoint hlen hi

variable (hfit : hs.Pairwise compatible)
include hfit

/-- Step 5: the points of groups that reach their threshold (R266). -/
theorem recoverGroups_groupOf {l : List (BitVec 4)} (hl : ∀ i ∈ l, i ∈ fullGroups hs) :
    recoverGroups (configWith p) n (l.map (groupOf hs)) =
      orDigestMismatch (l.mapM (groupPoint (configWith p) hs n)) := by
  induction l with
  | nil => rfl
  | cons i l ih =>
    obtain ⟨hi, hl⟩ := List.forall_mem_cons.mp hl
    have point : recoverGroup (configWith p) n (groupOf hs i) =
        orDigestMismatch (groupPoint (configWith p) hs n i) := by
      rw [recoverGroup_groupOf, shamirRecover_eq_combine (length_memberPoints hi) (nodup_memberPoints hfit)
        (length_of_mem_memberPoints hlen), map_orDigestMismatch, groupPoint_eq]
    simp only [List.map_cons, recoverGroups, point, ih hl, map_orDigestMismatch, bind_orDigestMismatch,
      mapM_cons_eq_bind]

/-- Steps 5 to 7 on the first groups that reach their threshold (R266, R267). -/
theorem recoverSecret_groupsOf (ident : BitVec 15) (ie : BitVec 5) (pp : List Byte)
    (hgt : gt ≤ (fullGroups hs).length) :
    recoverSecret (configWith p) gt n ident ie pp (((fullGroups hs).take gt).map (groupOf hs)) =
      orDigestMismatch ((combineGroups (configWith p) hs gt n).map
        (fun ems => feistelDecrypt (configWith p) ems ident ie pp)) := by
  have points := recoverGroups_groupOf (p := p) hlen hfit (l := (fullGroups hs).take gt)
    fun i hi => List.mem_of_mem_take hi
  rw [recoverSecret, points, combineGroups]
  cases hpts : ((fullGroups hs).take gt).mapM (groupPoint (configWith p) hs n) with
  | none => rfl
  | some pts =>
    have xs : pts.map Prod.fst = ((fullGroups hs).take gt).map (BitVec.setWidth 8) := by
      rw [hpts] at points
      simp [map_fst_of_recoverGroups points, groupOf, Function.comp_def]
    have count : pts.length = gt := by
      rw [← List.length_map (f := Prod.fst), xs, List.length_map, List.length_take_of_le hgt]
    have nodup : (pts.map Prod.fst).Nodup := by
      rw [xs]
      exact nodup_map_setWidth ((nodup_groupOrder hs).sublist
        ((List.take_sublist _ _).trans List.filter_sublist))
    have length : ∀ pt ∈ pts, pt.2.length = n := fun pt hpt => by
      obtain ⟨i, -, hi⟩ := exists_of_mem_mapM hpts hpt
      exact length_of_groupPoint hlen hi
    show (shamirRecover (configWith p) gt pts n).map _ = orDigestMismatch ((combine (configWith p) gt pts n).map _)
    rw [shamirRecover_eq_combine count nodup length, map_orDigestMismatch]

end

/-! ## The statement -/

/-- Recovery from shares that belong together, step by step (R262 to R267). -/
theorem recoverShares_of_compatible {pp : List Byte} {h0 : Share} (hsame : ∀ a ∈ hs, sameFour a h0)
    (hvalue : 16 ≤ h0.value.length ∧ h0.value.length ≤ 32 ∧ h0.value.length % 2 = 0)
    (hfit : (h0 :: hs).Pairwise compatible) :
    recoverShares hardware pp h0 hs =
      if (groupOrder (h0 :: hs)).length < h0.gt.toNat then .error .insufficientShares
      else if (fullGroups (h0 :: hs)).length < h0.gt.toNat then .error .notEnoughMemberShards
      else orDigestMismatch ((combineGroups hardware (h0 :: hs) h0.gt.toNat h0.value.length).map
        (fun ems => feistelDecrypt hardware ems h0.id h0.ie pp)) := by
  rw [recoverShares_of_same hsame hvalue, groupShares_of_compatible hfit]
  show (selectGroups h0.gt.toNat (groupsOf (h0 :: hs))).bind _ = _
  rw [selectGroups_groupsOf]
  split_ifs with horder hfull
  · rfl
  · rfl
  · exact recoverSecret_groupsOf (p := freePorts) (length_of_sameFour hsame) hfit _ _ _ (Nat.not_lt.mp hfull)

/-- Where enough groups reach their threshold and all digests agree, the secret is what they combine to, decrypted. -/
theorem recoverShares_of_combineGroups {pp ems : List Byte} {h0 : Share} (hsame : ∀ a ∈ hs, sameFour a h0)
    (hvalue : 16 ≤ h0.value.length ∧ h0.value.length ≤ 32 ∧ h0.value.length % 2 = 0)
    (hfit : (h0 :: hs).Pairwise compatible) (hfull : h0.gt.toNat ≤ (fullGroups (h0 :: hs)).length)
    (hems : combineGroups hardware (h0 :: hs) h0.gt.toNat h0.value.length = some ems) :
    recoverShares hardware pp h0 hs = .ok (feistelDecrypt hardware ems h0.id h0.ie pp) := by
  have horder := hfull.trans (List.length_filter_le _ _)
  rw [recoverShares_of_compatible hsame hvalue hfit, if_neg (Nat.not_lt.mpr horder), if_neg (Nat.not_lt.mpr hfull),
    hems]
  rfl

/-- Settles O56: `recoverShares_of_compatible` on the shares the rows decode to. -/
theorem recoverOfTrueShares : Obligations.RecoverOfTrueShares := by
  intro s h0 hs hplen hholds hsame hlo hhi heven hfit gt n
  have recovered := recoverShares_of_compatible (pp := s.passphrase) hsame ⟨hlo, hhi, heven⟩ hfit
  split_ifs with horder hfull
  · exact exec_recover_of_error hplen hholds (recovered.trans (if_pos horder))
  · exact exec_recover_of_error hplen hholds (recovered.trans ((if_neg horder).trans (if_pos hfull)))
  · rw [if_neg horder, if_neg hfull] at recovered
    cases hems : combineGroups hardware (h0 :: hs) gt n with
    | none =>
      rw [hems] at recovered
      exact exec_recover_of_error hplen hholds recovered
    | some ems =>
      have recovered := recoverShares_of_combineGroups (pp := s.passphrase) hsame ⟨hlo, hhi, heven⟩ hfit
        (Nat.not_lt.mp hfull) hems
      have length : ems.length = n := length_of_combineGroups (p := freePorts) (length_of_sameFour hsame) hems
      have decrypted : (feistelDecrypt hardware ems h0.id h0.ie s.passphrase).length = n := by
        rw [feistelDecrypt, length_feistel _ _ _ _ _ _ (length ▸ heven), length]
      rw [(exec_recover_of_ok hplen hholds recovered).1, State.putValue, decrypted]
      rfl

end Sys2Proof.Machine
end

section
/-! PROOFS. Members chosen from a generation (46_orchestrator.md R254): which rows they have, and what their shares have
in common. -/

namespace Sys2Proof.Machine

open Sys2Proof.Safety

variable {s : State} {g k m : Nat} {chosen : List (Nat × Nat)}

/-! ## Rows and members -/

theorem firstRow_succ (s : State) (g : Nat) : firstRow s (g + 1) = firstRow s g + memberCount s g := by
  simp [firstRow, List.range_succ]

/-- The rows of a group end before those of a later group. -/
theorem firstRow_add_memberCount_le (h : g < k) : firstRow s g + memberCount s g ≤ firstRow s k := by
  rw [← firstRow_succ]
  exact monotone_nat_of_le_succ (fun j => (firstRow_succ s j).symm ▸ Nat.le_add_right _ _) h

/-- Every row below the first of group `k` is that of a member of an earlier group. -/
theorem exists_member_of_lt_firstRow {row : Nat} (h : row < firstRow s k) :
    ∃ p : Nat × Nat, p.1 < k ∧ p.2 < memberCount s p.1 ∧ row = firstRow s p.1 + p.2 := by
  induction k with
  | zero => simp [firstRow] at h
  | succ k ih =>
    rw [firstRow_succ] at h
    rcases Nat.lt_or_ge row (firstRow s k) with before | behind
    · obtain ⟨p, hg, hm, hrow⟩ := ih before
      exact ⟨p, hg.trans k.lt_succ_self, hm, hrow⟩
    · exact ⟨(k, row - firstRow s k), k.lt_succ_self, Nat.sub_lt_left_of_lt_add behind h,
        (Nat.add_sub_of_le behind).symm⟩

/-- The member a row belongs to is of group `g` exactly when the row is among those of `g`. -/
theorem fst_eq_iff_row (hm : m < memberCount s k) :
    k = g ↔ firstRow s g ≤ firstRow s k + m ∧ firstRow s k + m < firstRow s g + memberCount s g := by
  constructor
  · rintro rfl
    omega
  · rintro ⟨hlo, hhi⟩
    rcases Nat.lt_trichotomy k g with hlt | heq | hgt
    · have := firstRow_add_memberCount_le (s := s) hlt
      omega
    · exact heq
    · have := firstRow_add_memberCount_le (s := s) hgt
      omega

/-- Rows as members. -/
theorem exists_members_of_rows {rows : List (Fin 256)} (h : ∀ row ∈ rows, row.val < firstRow s k) :
    ∃ chosen : List (Nat × Nat), (∀ p ∈ chosen, p.1 < k ∧ p.2 < memberCount s p.1) ∧
      rows.map Fin.val = chosen.map (fun p => firstRow s p.1 + p.2) := by
  induction rows with
  | nil => exact ⟨[], by simp, rfl⟩
  | cons row rows ih =>
    obtain ⟨hrow, hrows⟩ := List.forall_mem_cons.mp h
    obtain ⟨p, hg, hm, heq⟩ := exists_member_of_lt_firstRow hrow
    obtain ⟨chosen, hchosen, hmap⟩ := ih hrows
    exact ⟨p :: chosen, List.forall_mem_cons.mpr ⟨⟨hg, hm⟩, hchosen⟩, by simp [heq, hmap]⟩

/-! ## The chosen members of a group -/

/-- The numbers of the chosen members of group `g`, in order. -/
def indicesIn (chosen : List (Nat × Nat)) (g : Nat) : List Nat := (chosen.filter (fun p => p.1 == g)).map Prod.snd

theorem mem_indicesIn : m ∈ indicesIn chosen g ↔ (g, m) ∈ chosen := by
  simp [indicesIn]

theorem nodup_indicesIn (h : chosen.Nodup) : (indicesIn chosen g).Nodup := by
  refine (h.filter _).map_on fun p hp q hq hpq => Prod.ext ?_ hpq
  have hp := (List.mem_filter.mp hp).2
  have hq := (List.mem_filter.mp hq).2
  exact (eq_of_beq hp).trans (eq_of_beq hq).symm

/-- The chosen rows of a group are those of its chosen members. -/
theorem length_filter_rows {rows : List (Fin 256)} (hmember : ∀ p ∈ chosen, p.2 < memberCount s p.1)
    (hrows : rows.map Fin.val = chosen.map (fun p => firstRow s p.1 + p.2)) :
    (rows.filter (fun m => decide (firstRow s g ≤ m.val ∧ m.val < firstRow s g + memberCount s g))).length =
      (indicesIn chosen g).length := by
  have count := congrArg (List.countP fun row =>
    decide (firstRow s g ≤ row ∧ row < firstRow s g + memberCount s g)) hrows
  rw [List.countP_map, List.countP_map] at count
  rw [indicesIn, List.length_map, ← List.countP_eq_length_filter, ← List.countP_eq_length_filter]
  refine count.trans (List.countP_congr fun p hp => ?_)
  simpa using (fst_eq_iff_row (hmember p hp)).symm

/-! ## The share of a member -/

theorem getD_groupValues_mem (hg : g < s.gc.toNat) : (groupValues s).getD g [] ∈ groupValues s := by
  rw [List.getD_eq_getElem _ _ (by simpa [groupValues] using hg)]
  exact List.getElem_mem _

namespace GenerateOperands

variable (h : GenerateOperands s)
include h

theorem length_groupValue (hg : g < s.gc.toNat) : ((groupValues s).getD g []).length = s.len.toNat :=
  h.length_of_mem_groupValues _ (getD_groupValues_mem hg)

theorem length_generatedShare (hg : g < s.gc.toNat) (hm : m < memberCount s g) :
    (generatedShare s g m).value.length = s.len.toNat := by
  have hlen := h.length_groupValue hg
  have hm : m < (memberValues s g).length := by simpa [memberValues] using hm
  rw [← hlen, generatedShare, List.getD_eq_getElem _ _ hm]
  exact length_of_mem_shamirSplit _ _ _ _ _ (by have := h.length; omega) _ (List.getElem_mem hm)

theorem toNat_mt_generatedShare (hg : g < s.gc.toNat) : (generatedShare s g m).mt.toNat = memberThreshold s g := by
  have hg : g < 16 := hg.trans_le h.gc_le
  simp [generatedShare, memberThreshold, hg]

/-- A member's share is one `share_encode` takes (R233). -/
theorem legalShare_generatedShare (hg : g < s.gc.toNat) (hm : m < memberCount s g) :
    legalShare (generatedShare s g m) := by
  have hthreshold := h.memberThreshold_le hg
  have hgroup := h.group
  have hlength := h.length
  rw [legalShare, h.toNat_mt_generatedShare hg, h.length_generatedShare hg hm]
  simp only [generatedShare]
  omega

theorem sameFour_generatedShare {p q : Nat × Nat} (hp : p.1 < s.gc.toNat ∧ p.2 < memberCount s p.1)
    (hq : q.1 < s.gc.toNat ∧ q.2 < memberCount s q.1) :
    sameFour (generatedShare s p.1 p.2) (generatedShare s q.1 q.2) :=
  ⟨rfl, rfl, rfl, (h.length_generatedShare hp.1 hp.2).trans (h.length_generatedShare hq.1 hq.2).symm⟩

theorem lt_sixteen (hg : g < s.gc.toNat) : g < 16 := hg.trans_le h.gc_le

end GenerateOperands

theorem ofNat4_inj_of_lt {i j : Nat} (hi : i < 16) (hj : j < 16) (h : BitVec.ofNat 4 i = BitVec.ofNat 4 j) : i = j := by
  have := congrArg BitVec.toNat h
  simp only [BitVec.toNat_ofNat] at this
  omega

/-- Different members chosen from a generation. -/
structure ChosenMembers (s : State) (chosen : List (Nat × Nat)) : Prop where
  operands : GenerateOperands s
  nodup : chosen.Nodup
  member : ∀ p ∈ chosen, p.1 < s.gc.toNat ∧ p.2 < memberCount s p.1

/-- The shares of chosen members. -/
def chosenShares (s : State) (chosen : List (Nat × Nat)) : List Share := chosen.map (fun p => generatedShare s p.1 p.2)

namespace ChosenMembers

variable (h : ChosenMembers s chosen)
include h

theorem length_of_mem_chosenShares : ∀ a ∈ chosenShares s chosen, a.value.length = s.len.toNat := by
  intro a ha
  obtain ⟨p, hp, rfl⟩ := List.mem_map.mp ha
  obtain ⟨hg, hm⟩ := h.member p hp
  exact h.operands.length_generatedShare hg hm

/-- They fit each other: different members of one group have one threshold and different indices. -/
theorem pairwise_compatible : (chosenShares s chosen).Pairwise compatible := by
  refine List.pairwise_map.mpr (h.nodup.imp_of_mem fun {p q} hp hq hne hgi => ?_)
  obtain ⟨hpg, hpm⟩ := h.member p hp
  obtain ⟨hqg, hqm⟩ := h.member q hq
  have same : p.1 = q.1 := ofNat4_inj_of_lt (h.operands.lt_sixteen hpg) (h.operands.lt_sixteen hqg) hgi
  have small {g : Nat} (hg : g < s.gc.toNat) := h.operands.memberCount_le hg
  refine ⟨by rw [same]; rfl, fun hmi => hne (Prod.ext same ?_)⟩
  exact ofNat4_inj_of_lt (hpm.trans_le (small hpg)) (hqm.trans_le (small hqg)) hmi

/-- The members of a group among them (R264). -/
theorem membersOf_chosenShares (hg : g < s.gc.toNat) :
    membersOf (chosenShares s chosen) (BitVec.ofNat 4 g) = (indicesIn chosen g).map (generatedShare s g) := by
  have ofGroup : ∀ p ∈ chosen, ((generatedShare s p.1 p.2).gi == BitVec.ofNat 4 g) = (p.1 == g) := by
    intro p hp
    rw [Bool.eq_iff_iff, beq_iff_eq, beq_iff_eq]
    exact ⟨ofNat4_inj_of_lt (h.operands.lt_sixteen (h.member p hp).1) (h.operands.lt_sixteen hg),
      fun heq => by rw [heq]; rfl⟩
  rw [membersOf, chosenShares, List.filter_map, indicesIn, List.map_map]
  refine (congrArg _ (List.filter_congr ofGroup)).trans (List.map_congr_left fun p hp => ?_)
  rw [← eq_of_beq (List.mem_filter.mp hp).2]
  rfl

theorem thresholdOf_chosenShares (hg : g < s.gc.toNat) (hne : indicesIn chosen g ≠ []) :
    thresholdOf (chosenShares s chosen) (BitVec.ofNat 4 g) = memberThreshold s g := by
  obtain ⟨m, rest, hcons⟩ := List.exists_cons_of_ne_nil hne
  rw [thresholdOf, h.membersOf_chosenShares hg, hcons]
  exact h.operands.toNat_mt_generatedShare hg

/-- The groups that reach their threshold, by number (R265). -/
theorem mem_fullGroups_iff {i : BitVec 4} : i ∈ fullGroups (chosenShares s chosen) ↔
    ∃ g, g < s.gc.toNat ∧ i = BitVec.ofNat 4 g ∧ memberThreshold s g ≤ (indicesIn chosen g).length := by
  have full {g : Nat} (hg : g < s.gc.toNat) (hne : indicesIn chosen g ≠ []) :
      thresholdOf (chosenShares s chosen) (BitVec.ofNat 4 g) ≤
        (membersOf (chosenShares s chosen) (BitVec.ofNat 4 g)).length ↔
      memberThreshold s g ≤ (indicesIn chosen g).length := by
    rw [h.thresholdOf_chosenShares hg hne, h.membersOf_chosenShares hg, List.length_map]
  rw [fullGroups, List.mem_filter, decide_eq_true_iff, mem_groupOrder]
  constructor
  · rintro ⟨⟨a, ha, rfl⟩, hfull⟩
    obtain ⟨⟨g, m⟩, hp, rfl⟩ := List.mem_map.mp ha
    obtain ⟨hg, -⟩ := h.member _ hp
    exact ⟨g, hg, rfl, (full hg (List.ne_nil_of_mem (mem_indicesIn.mpr hp))).mp hfull⟩
  · rintro ⟨g, hg, rfl, hfull⟩
    have hpos := (h.operands.memberThreshold_le hg).1
    obtain ⟨m, hm⟩ := List.exists_mem_of_length_pos (hpos.trans hfull)
    exact ⟨⟨_, List.mem_map_of_mem (mem_indicesIn.mp hm), rfl⟩, (full hg (List.ne_nil_of_mem hm)).mpr hfull⟩

/-- There are as many groups that reach their threshold as there are numbers of such groups. -/
theorem le_length_fullGroups {gt : Nat} (henough : gt ≤ ((List.range s.gc.toNat).filter (fun g =>
    decide (memberThreshold s g ≤ (indicesIn chosen g).length))).length) :
    gt ≤ (fullGroups (chosenShares s chosen)).length := by
  refine henough.trans ?_
  rw [← List.length_map (f := BitVec.ofNat 4)]
  refine (List.Nodup.subperm ?_ fun i hi => ?_).length_le
  · refine (List.nodup_range.filter _).map_on fun i hi j hj => ofNat4_inj_of_lt ?_ ?_
    · exact h.operands.lt_sixteen (List.mem_range.mp (List.mem_filter.mp hi).1)
    · exact h.operands.lt_sixteen (List.mem_range.mp (List.mem_filter.mp hj).1)
  · obtain ⟨g, hg, rfl⟩ := List.mem_map.mp hi
    obtain ⟨hg, hfull⟩ := List.mem_filter.mp hg
    exact h.mem_fullGroups_iff.mpr ⟨g, List.mem_range.mp hg, rfl, of_decide_eq_true hfull⟩

end ChosenMembers

end Sys2Proof.Machine
end

section
/-! PROOFS. The full pipeline (46_orchestrator.md R256, R265, R266): enough members chosen from a generation give each
of the groups used its share, these give the encrypted secret, and the passphrase decrypts it. -/

namespace Sys2Proof.Machine

open Sys2Proof.Safety

variable {s : State} {g : Nat} {chosen : List (Nat × Nat)}

/-! ## One level -/

/-- As many different shares of a split as its threshold combine to the secret (R188). -/
theorem combine_sharePoints {p : Ports} {drawn count t : Nat} {secret : List Byte} {numbers : List Nat}
    (ht : 1 ≤ t ∧ t ≤ count ∧ count ≤ 16) (hsecret : 16 ≤ secret.length ∧ secret.length ≤ 32)
    (hnodup : numbers.Nodup) (hsmall : ∀ x ∈ numbers, x < count) (hlen : numbers.length = t) :
    combine (configWith p) t (sharePoints (shamirSplit (configWith p) drawn count t secret) numbers) secret.length =
      some secret := by
  obtain ⟨hpos, hle, hcount⟩ := ht
  obtain ⟨hmin, hmax⟩ := hsecret
  have distinct := nodup_sharePoints (shamirSplit (configWith p) drawn count t secret) hnodup
    fun x hx => (hsmall x hx).trans (by omega)
  have combined := shamirRecover_eq_combine (p := p) (t := t) (by simp [sharePoints, hlen]) distinct
    (length_of_mem_sharePoints (by omega) hsmall)
  exact orDigestMismatch_eq_ok.mp (combined.symm.trans
    (anyThresholdSharesRecover p drawn count t secret numbers hpos hle hcount hmin hmax hnodup hsmall hlen.ge))

/-- Results that are all there are the list of them. -/
theorem mapM_eq_some_map {α β : Type} {f : α → Option β} {r : α → β} {l : List α} (h : ∀ x ∈ l, f x = some (r x)) :
    l.mapM f = some (l.map r) := by
  induction l with
  | nil => rfl
  | cons x l ih =>
    obtain ⟨hx, hl⟩ := List.forall_mem_cons.mp h
    rw [mapM_cons_eq_bind, hx, ih hl]
    rfl

/-! ## Two levels -/

/-- The groups a recovery from chosen members uses (R266). -/
def usedGroups (s : State) (chosen : List (Nat × Nat)) : List (BitVec 4) :=
  (fullGroups (chosenShares s chosen)).take s.gt.toNat

theorem combineGroups_eq_usedGroups (C : Config) (s : State) (chosen : List (Nat × Nat)) (n : Nat) :
    combineGroups C (chosenShares s chosen) s.gt.toNat n =
      ((usedGroups s chosen).mapM (groupPoint C (chosenShares s chosen) n)).bind
        (fun pts => combine C s.gt.toNat pts n) := rfl

theorem nodup_usedGroups (s : State) (chosen : List (Nat × Nat)) : (usedGroups s chosen).Nodup :=
  (nodup_groupOrder _).sublist ((List.take_sublist _ _).trans List.filter_sublist)

namespace ChosenMembers

variable (h : ChosenMembers s chosen)
include h

/-- The points of a group that reaches its threshold are shares of the group's share. -/
theorem memberPoints_chosenShares (hg : g < s.gc.toNat) (hne : indicesIn chosen g ≠ []) :
    memberPoints (chosenShares s chosen) (BitVec.ofNat 4 g) =
      sharePoints (memberValues s g) ((indicesIn chosen g).take (memberThreshold s g)) := by
  rw [memberPoints, h.thresholdOf_chosenShares hg hne, h.membersOf_chosenShares hg, ← List.map_take, List.map_map,
    sharePoints]
  refine List.map_congr_left fun m hm => ?_
  have hm : m < 16 := (h.member _ (mem_indicesIn.mp (List.mem_of_mem_take hm))).2.trans_le
    (h.operands.memberCount_le hg)
  have index : (BitVec.ofNat 4 m).setWidth 8 = BitVec.ofNat 8 m := by
    apply BitVec.eq_of_toNat_eq
    rw [BitVec.toNat_setWidth, BitVec.toNat_ofNat, BitVec.toNat_ofNat]
    omega
  simp [generatedShare, index]

/-- A group that reaches its threshold gives back its share (R266). -/
theorem groupPoint_chosenShares (hg : g < s.gc.toNat) (hfull : memberThreshold s g ≤ (indicesIn chosen g).length) :
    groupPoint hardware (chosenShares s chosen) s.len.toNat (BitVec.ofNat 4 g) =
      some ((BitVec.ofNat 4 g).setWidth 8, (groupValues s).getD g []) := by
  have threshold := h.operands.memberThreshold_le hg
  have hne : indicesIn chosen g ≠ [] := List.ne_nil_of_length_pos (threshold.1.trans hfull)
  have length := h.operands.length_groupValue hg
  have secret := combine_sharePoints (p := freePorts) (drawn := groupDrawn s g) (secret := (groupValues s).getD g [])
    threshold (by have := h.operands.length; omega) ((nodup_indicesIn h.nodup).sublist (List.take_sublist _ _))
    (fun m hm => (h.member _ (mem_indicesIn.mp (List.mem_of_mem_take hm))).2) (List.length_take_of_le hfull)
  rw [groupPoint_eq, h.thresholdOf_chosenShares hg hne, h.memberPoints_chosenShares hg hne, ← length]
  exact congrArg _ secret

/-- Every group used gives its share among those of the groups. -/
theorem groupPoint_of_mem_usedGroups {i : BitVec 4} (hi : i ∈ usedGroups s chosen) :
    i.toNat < s.gc.toNat ∧ groupPoint hardware (chosenShares s chosen) s.len.toNat i =
      some (BitVec.ofNat 8 i.toNat, (groupValues s).getD i.toNat []) := by
  obtain ⟨g, hg, rfl, hfull⟩ := h.mem_fullGroups_iff.mp (List.mem_of_mem_take hi)
  have number : (BitVec.ofNat 4 g).toNat = g := Nat.mod_eq_of_lt (h.operands.lt_sixteen hg)
  rw [BitVec.ofNat_toNat, number]
  exact ⟨hg, h.groupPoint_chosenShares hg hfull⟩

/-- Enough groups that reach their threshold give back the encrypted secret (R266). -/
theorem combineGroups_chosenShares (henough : s.gt.toNat ≤ (fullGroups (chosenShares s chosen)).length) :
    combineGroups hardware (chosenShares s chosen) s.gt.toNat s.len.toNat = some (fourRounds hardware s 0 1 2 3) := by
  have points : (usedGroups s chosen).mapM (groupPoint hardware (chosenShares s chosen) s.len.toNat) =
      some (sharePoints (groupValues s) ((usedGroups s chosen).map BitVec.toNat)) := by
    rw [mapM_eq_some_map fun i hi => (h.groupPoint_of_mem_usedGroups hi).2, sharePoints, List.map_map]
    rfl
  have nodup : ((usedGroups s chosen).map BitVec.toNat).Nodup :=
    (nodup_usedGroups s chosen).map fun _ _ => BitVec.eq_of_toNat_eq
  have small : ∀ g ∈ (usedGroups s chosen).map BitVec.toNat, g < s.gc.toNat := by
    intro g hg
    obtain ⟨i, hi, rfl⟩ := List.mem_map.mp hg
    exact (h.groupPoint_of_mem_usedGroups hi).1
  have count : ((usedGroups s chosen).map BitVec.toNat).length = s.gt.toNat := by
    rw [List.length_map, usedGroups, List.length_take_of_le henough]
  have length := h.operands.length_encrypted
  have secret := combine_sharePoints (p := freePorts) (drawn := s.rngDrawn)
    (secret := fourRounds hardware s 0 1 2 3) h.operands.group (by have := h.operands.length; omega) nodup small count
  rw [combineGroups_eq_usedGroups, points, Option.bind_some, ← length]
  exact secret

/-- The recovery from chosen members, with the passphrase of the generation (R262 to R267). -/
theorem recoverShares_chosenShares {p : Nat × Nat} {rest : List (Nat × Nat)} (hcons : chosen = p :: rest)
    (henough : s.gt.toNat ≤ (fullGroups (chosenShares s chosen)).length) :
    recoverShares hardware s.passphrase (generatedShare s p.1 p.2) (chosenShares s rest) = .ok s.value := by
  subst hcons
  obtain ⟨first, others⟩ := List.forall_mem_cons.mp h.member
  have length := h.operands.length_generatedShare first.1 first.2
  have same : ∀ a ∈ chosenShares s rest, sameFour a (generatedShare s p.1 p.2) := by
    intro a ha
    obtain ⟨q, hq, rfl⟩ := List.mem_map.mp ha
    exact h.operands.sameFour_generatedShare (others q hq) first
  have heven : s.value.length % 2 = 0 := by
    rw [length_value h.operands.len_le]
    exact h.operands.len_even
  have decrypted := (decryptInvertsEncrypt hardware s.value s.id s.ie s.passphrase heven).1
  rw [h.operands.encrypted_eq] at decrypted
  have recovered := recoverShares_of_combineGroups (pp := s.passphrase) same (length.symm ▸ h.operands.length)
    h.pairwise_compatible henough (length.symm ▸ h.combineGroups_chosenShares henough)
  exact recovered.trans (congrArg _ decrypted)

/-- A buffer of mnemonics that are copies of theirs holds their shares, if the length is no multiple of 5 (R351). -/
theorem holdsShares_of_copies {t r : State} (hfive : s.len.toNat % 5 ≠ 0) {rows : List (Fin 256)}
    (hrows : rows.map Fin.val = chosen.map (fun p => firstRow s p.1 + p.2)) (hnodup : rows.Nodup)
    (hholds : ∀ (g m : Nat) (row : Fin 256), g < s.gc.toNat → m < memberCount s g → row.val = firstRow s g + m →
      holdsMnemonic t row (shareEncode hardware (generatedShare s g m)))
    (hnsh : r.nsh.toNat = rows.length)
    (hcopy : ∀ (k m : Fin 256), rows[k.val]? = some m → r.mn[k] = t.mn[m] ∧ r.mnlen[k] = t.mnlen[m]) :
    holdsShares r (chosenShares s chosen) := by
  have count : (chosenShares s chosen).length = rows.length := by
    rw [chosenShares, List.length_map, ← List.length_map (as := rows) Fin.val, hrows, List.length_map]
  have room : rows.length ≤ 256 := by simpa using hnodup.length_le_card
  refine ⟨count ▸ room, count ▸ hnsh, fun k a ha => ?_⟩
  rw [chosenShares, List.getElem?_map, Option.map_eq_some_iff] at ha
  obtain ⟨p, hp, rfl⟩ := ha
  have position := congrArg (fun l => l[k.val]?) hrows
  simp only [List.getElem?_map, hp, Option.map_some, Option.map_eq_some_iff] at position
  obtain ⟨m, hm, hrow⟩ := position
  obtain ⟨hg, hmem⟩ := h.member p (List.mem_of_getElem? hp)
  obtain ⟨hmn, hmnlen⟩ := hcopy k m hm
  refine ⟨h.operands.legalShare_generatedShare hg hmem, h.operands.group.2.1, ?_, ?_⟩
  · rwa [h.operands.length_generatedShare hg hmem]
  · rw [holdsMnemonic, hmn, hmnlen]
    exact hholds p.1 p.2 m hg hmem hrow

end ChosenMembers

/-! ## The statement -/

/-- Settles O59: the chosen rows are those of different members, whose shares give back the secret. -/
theorem generateThenRecoverRestores : Obligations.GenerateThenRecoverRestores := by
  intro s hmin hle hmax hsound hplen hmember count thr start
  obtain ⟨hlo, hhi, heven, hfive⟩ := hsound
  have operands : GenerateOperands s := ⟨⟨hmin, hle, hmax⟩, ⟨hlo, hhi, heven⟩, hmember, hplen⟩
  obtain ⟨t, he, status, nsh, -, -, hholds⟩ := operands.exec_generate
  refine ⟨t, he, status, fun rows r hnodup hrows henough hnsh hcopy hpass hrplen => ?_⟩
  obtain ⟨chosen, hchosen, hmap⟩ := exists_members_of_rows (s := s) (k := s.gc.toNat) fun m hm => nsh ▸ hrows m hm
  have members : ChosenMembers s chosen :=
    ⟨operands, (hmap ▸ hnodup.map Fin.val_injective).of_map, hchosen⟩
  have inGroup (g : Nat) : (rows.filter (fun m => decide (start g ≤ m.val ∧ m.val < start g + count g))).length =
      (indicesIn chosen g).length := length_filter_rows (fun p hp => (hchosen p hp).2) hmap
  simp only [inGroup] at henough
  have full := members.le_length_fullGroups henough
  have held := members.holdsShares_of_copies hfive hmap hnodup hholds hnsh hcopy
  obtain ⟨p, rest, hcons⟩ : ∃ p rest, chosen = p :: rest := by
    refine List.exists_cons_of_ne_nil ?_
    rintro rfl
    exact Nat.not_succ_le_zero 0 (hmin.trans full)
  have passphrase : r.passphrase = s.passphrase := by rw [State.passphrase, hpass, hrplen, State.passphrase]
  have recovered := members.recoverShares_chosenShares hcons full
  rw [← passphrase] at recovered
  rw [hcons] at held
  obtain ⟨hexec, frame⟩ := exec_recover_of_ok (hrplen ▸ hplen) held recovered
  have hvalue := length_value hhi
  obtain ⟨len, value⟩ : (r.putValue s.value).succeed.len.toNat = s.value.length ∧
      (r.putValue s.value).succeed.value = s.value := value_putValue (hvalue ▸ hhi)
  exact ⟨_, hexec, rfl, BitVec.eq_of_toNat_eq (len.trans hvalue), value, frame, rfl⟩

end Sys2Proof.Machine
end

section
/-! PROOFS. How a command ends (60_exceptions.md R300 to R307): the status words, and which errors each of the pure
functions, and so each command, can report; and the two housekeeping commands (47_housekeeping.md R290, R291). -/

namespace Sys2Proof.Machine

open Sys2Proof.Safety

/-! ## Status words -/

/-- Settles O18: 13 closed words, one for each row of the table of R302. -/
theorem errorStatusWords : Obligations.ErrorStatusWords := ⟨by decide, rfl⟩

/-! ## Housekeeping -/

/-- Settles O22: the command's body is the state itself (R290), so only the completion changes something. -/
theorem nopOnlySetsStatus : Obligations.NopOnlySetsStatus := fun s => (exec_of_ok (i := .nop) (s := s) rfl).1

/-- What `CLR` writes is what reset leaves there (R291: "equals its reset value"). -/
theorem readLoc_clear_eq_reset (s : State) {l : Loc} (hl : l ≠ .status) :
    s.clear.readLoc l = State.reset.readLoc l := by
  cases l with
  | status => exact absurd rfl hl
  | _ => rfl

theorem exec_clr (s : State) : exec .clr s = .next s.clear.succeed := (exec_of_ok (i := .clr) rfl).1

theorem clear_succeed_idem (s : State) : s.clear.succeed.clear.succeed = s.clear.succeed := rfl

/-- Settles O23: a cleared cell reads as after reset, which is 0 (O11). -/
theorem clrZeroesEveryCell : Obligations.ClrZeroesEveryCell := by
  intro s
  have zero (l : Loc) (hl : l ≠ .status) : s.clear.succeed.readLoc l = 0 := calc
    s.clear.succeed.readLoc l = s.clear.readLoc l := readLoc_succeed _ _ hl
    _ = State.reset.readLoc l := readLoc_clear_eq_reset s hl
    _ = 0 := resetReadsZero l
  have again : exec .clr s.clear.succeed = .next s.clear.succeed := by rw [exec_clr, clear_succeed_idem]
  exact ⟨_, exec_clr s, rfl, zero, rfl, rfl, rfl, again⟩

/-! ## Which errors a computation can end in -/

/-- The errors `r` can end in are among `errs`. -/
def FailsOnlyWith {α : Type} (errs : List CmdError) (r : Except CmdError α) : Prop := ∀ e, r = .error e → e ∈ errs

section FailsOnlyWith

variable {α β : Type} {errs errs' : List CmdError} {e : CmdError} {r : Except CmdError α}

theorem failsOnlyWith_ok (a : α) : FailsOnlyWith errs (.ok a) := nofun

theorem failsOnlyWith_error (he : e ∈ errs) : FailsOnlyWith errs (.error e : Except CmdError α) := by
  rintro _ ⟨⟩
  exact he

theorem FailsOnlyWith.mono (h : FailsOnlyWith errs r) (hsub : errs ⊆ errs') : FailsOnlyWith errs' r :=
  fun e he => hsub (h e he)

theorem failsOnlyWith_ite {p : Prop} [Decidable p] {r' : Except CmdError α} (h : FailsOnlyWith errs r)
    (h' : FailsOnlyWith errs r') : FailsOnlyWith errs (if p then r else r') := by
  split
  · exact h
  · exact h'

/-- A check in front of a result adds its own error (R306). -/
theorem failsOnlyWith_guard {p : Prop} [Decidable p] (he : e ∈ errs) (h : FailsOnlyWith errs r) :
    FailsOnlyWith errs (if p then .error e else r) :=
  failsOnlyWith_ite (failsOnlyWith_error he) h

theorem FailsOnlyWith.map (h : FailsOnlyWith errs r) (f : α → β) : FailsOnlyWith errs (r.map f) := by
  cases r with
  | ok a => exact failsOnlyWith_ok _
  | error e => exact failsOnlyWith_error (h e rfl)

theorem FailsOnlyWith.bind (h : FailsOnlyWith errs r) {f : α → Except CmdError β} (hf : ∀ a, FailsOnlyWith errs (f a)) :
    FailsOnlyWith errs (r.bind f) := by
  cases r with
  | ok a => exact hf a
  | error e => exact failsOnlyWith_error (h e rfl)

end FailsOnlyWith

/-! ## The pure functions that can fail -/

theorem failsOnlyWith_bytesOfWords (w : List Word) : FailsOnlyWith [.invalidPadding] (bytesOfWords w) :=
  failsOnlyWith_guard (by decide) (failsOnlyWith_ok _)

theorem failsOnlyWith_shamirRecover (C : Config) (t : Nat) (pts : List (Byte × List Byte)) (len : Nat) :
    FailsOnlyWith [.digestMismatch] (shamirRecover C t pts len) :=
  failsOnlyWith_ite (failsOnlyWith_ok _) (failsOnlyWith_guard (by decide) (failsOnlyWith_ok _))

/-- The errors of `share_decode` (R235). -/
def shareDecodeErrors : List CmdError := [.invalidMnemonicChecksum, .invalidGroupThreshold, .invalidPadding]

theorem failsOnlyWith_shareDecode (C : Config) (w : List Word) : FailsOnlyWith shareDecodeErrors (shareDecode C w) :=
  failsOnlyWith_guard (by decide)
    (failsOnlyWith_guard (by decide) (((failsOnlyWith_bytesOfWords _).mono (by decide)).map _))

theorem failsOnlyWith_decodeW (C : Config) (s : State) :
    FailsOnlyWith (.invalidOperand :: shareDecodeErrors) (decodeW C s) :=
  failsOnlyWith_guard (by decide) ((failsOnlyWith_shareDecode _ _).mono (by decide))

/-! ## Recovery, step by step -/

theorem failsOnlyWith_decodeRow (C : Config) (row : BitVec 6 × Vector Word 33) :
    FailsOnlyWith (.invalidOperand :: shareDecodeErrors) (decodeRow C row) :=
  failsOnlyWith_guard (by decide) ((failsOnlyWith_shareDecode _ _).mono (by decide))

theorem failsOnlyWith_decodeRows (C : Config) (rows : List (BitVec 6 × Vector Word 33)) :
    FailsOnlyWith (.invalidOperand :: shareDecodeErrors) (decodeRows C rows) := by
  induction rows with
  | nil => exact failsOnlyWith_ok _
  | cons row rows ih => exact (failsOnlyWith_decodeRow C row).bind fun _ => ih.map _

/-- The errors of putting a share into its group (R264). -/
def groupingErrors : List CmdError := [.memberThresholdMismatch, .duplicateMemberIndex]

theorem failsOnlyWith_addShare (h : Share) (gs : List Group) : FailsOnlyWith groupingErrors (addShare h gs) := by
  induction gs with
  | nil => exact failsOnlyWith_ok _
  | cons g gs ih =>
    exact failsOnlyWith_ite
      (failsOnlyWith_guard (by decide) (failsOnlyWith_guard (by decide) (failsOnlyWith_ok _))) (ih.map _)

theorem failsOnlyWith_groupShares (hs : List Share) (gs : List Group) :
    FailsOnlyWith groupingErrors (groupShares hs gs) := by
  induction hs generalizing gs with
  | nil => exact failsOnlyWith_ok _
  | cons h hs ih => exact (failsOnlyWith_addShare h gs).bind ih

theorem failsOnlyWith_selectGroups (gt : Nat) (gs : List Group) :
    FailsOnlyWith [.insufficientShares, .notEnoughMemberShards] (selectGroups gt gs) :=
  failsOnlyWith_guard (by decide) (failsOnlyWith_guard (by decide) (failsOnlyWith_ok _))

theorem failsOnlyWith_recoverGroups (C : Config) (n : Nat) (gs : List Group) :
    FailsOnlyWith [.digestMismatch] (recoverGroups C n gs) := by
  induction gs with
  | nil => exact failsOnlyWith_ok _
  | cons g gs ih => exact ((failsOnlyWith_shamirRecover _ _ _ _).map _).bind fun _ => ih.map _

theorem failsOnlyWith_recoverSecret (C : Config) (gt n : Nat) (ident : BitVec 15) (ie : BitVec 5) (pp : List Byte)
    (used : List Group) : FailsOnlyWith [.digestMismatch] (recoverSecret C gt n ident ie pp used) :=
  (failsOnlyWith_recoverGroups C n used).bind fun _ => (failsOnlyWith_shamirRecover _ _ _ _).map _

/-- Steps 2 to 7 of a recovery (R262 to R267) end only in errors R307 lists for `RECOVER`. -/
theorem failsOnlyWith_recoverShares (C : Config) (pp : List Byte) (h0 : Share) (hs : List Share) :
    FailsOnlyWith (reportable .recover) (recoverShares C pp h0 hs) :=
  failsOnlyWith_guard (by decide) <| failsOnlyWith_guard (by decide) <|
    ((failsOnlyWith_groupShares _ _).mono (by decide)).bind fun _ =>
      ((failsOnlyWith_selectGroups _ _).mono (by decide)).bind fun _ =>
        (failsOnlyWith_recoverSecret _ _ _ _ _ _ _).mono (by decide)

theorem failsOnlyWith_recoverBody (C : Config) (s : State) : FailsOnlyWith (reportable .recover) (recoverBody C s) := by
  refine failsOnlyWith_guard (by decide) <| failsOnlyWith_guard (by decide) <| failsOnlyWith_guard (by decide) <|
    ((failsOnlyWith_decodeRows _ _).mono (by decide)).bind fun shares => ?_
  cases shares with
  | nil => exact failsOnlyWith_error (by decide)
  | cons h0 hs => exact (failsOnlyWith_recoverShares C _ h0 hs).map _

/-! ## Commands -/

theorem failsOnlyWith_interpBody (C : Config) (q n : Byte) (s : State) :
    FailsOnlyWith [.invalidOperand] (interpBody C q n s) :=
  failsOnlyWith_guard (by decide) <| failsOnlyWith_guard (by decide) <|
    failsOnlyWith_guard (by decide) (failsOnlyWith_ok _)

theorem failsOnlyWith_splitBody (C : Config) (c k : Byte) (s : State) :
    FailsOnlyWith [.invalidOperand, .invalidSecretLength] (splitBody C c k s) :=
  failsOnlyWith_guard (by decide) (failsOnlyWith_guard (by decide) (failsOnlyWith_ok _))

theorem failsOnlyWith_srecoverBody (C : Config) (k : Byte) (s : State) :
    FailsOnlyWith [.invalidOperand, .invalidSecretLength, .digestMismatch] (srecoverBody C k s) :=
  failsOnlyWith_guard (by decide) <| failsOnlyWith_guard (by decide) <| failsOnlyWith_guard (by decide) <|
    ((failsOnlyWith_shamirRecover _ _ _ _).mono (by decide)).map _

theorem failsOnlyWith_cipherBody (C : Config) (f : List Byte → BitVec 15 → BitVec 5 → List Byte → List Byte)
    (s : State) : FailsOnlyWith [.invalidSecretLength, .invalidOperand] (cipherBody C f s) :=
  failsOnlyWith_guard (by decide) (failsOnlyWith_guard (by decide) (failsOnlyWith_ok _))

/-- A command reports only the errors R307 lists for it, under every configuration: those of its operand checks and of
the functions it calls. -/
theorem failsOnlyWith_commandBody (C : Config) (i : Instr) (s : State) :
    FailsOnlyWith (reportable i) (commandBody C i s) := by
  cases i with
  | nop | clr | gfmul a b => exact failsOnlyWith_ok _
  | wenc | rspoly | rscreate | rsverify => exact failsOnlyWith_guard (by decide) (failsOnlyWith_ok _)
  | wdec => exact failsOnlyWith_guard (by decide) (((failsOnlyWith_bytesOfWords _).mono (by decide)).map _)
  | interp q n => exact failsOnlyWith_interpBody C q n s
  | split c k => exact failsOnlyWith_splitBody C c k s
  | srecover k => exact failsOnlyWith_srecoverBody C k s
  | fenc | fdec => exact failsOnlyWith_cipherBody C _ s
  | shenc =>
    exact failsOnlyWith_guard (by decide) <| failsOnlyWith_guard (by decide) <|
      failsOnlyWith_guard (by decide) (failsOnlyWith_ok _)
  | shdec | check1 => exact (failsOnlyWith_decodeW C s).map _
  | generate =>
    exact failsOnlyWith_guard (by decide) <| failsOnlyWith_guard (by decide) <| failsOnlyWith_guard (by decide) <|
      failsOnlyWith_guard (by decide) (failsOnlyWith_ok _)
  | recover => exact failsOnlyWith_recoverBody C s

/-- Settles O19: the body of the command succeeds, or fails with an error of its own (`failsOnlyWith_commandBody`),
which is completed with `STATUS` alone. -/
theorem commandsSucceedOrFailClean : Obligations.CommandsSucceedOrFailClean := by
  intro i s
  cases h : commandBody hardware i s with
  | ok t => exact .inl ⟨t.succeed, (exec_of_ok h).1, rfl⟩
  | error e => exact .inr ⟨e, failsOnlyWith_commandBody hardware i s e h, exec_of_error h⟩

end Sys2Proof.Machine
end
